-- ==== Sys2Proof/Word.lean ====
section
/-! DEFINITION. The word types of VFDMUX: every value is an unsigned bit vector of stated width
(00_scope.md R11). -/

namespace Sys2Proof

/-- A command word or a response: 32 bits (30_encoding.md R58, R75). -/
abbrev Word := BitVec 32

/-- One DigitFrame: 24 bits (00_scope.md R7, 30_encoding.md R77). -/
abbrev Frame := BitVec 24

/-- A character code, a segment byte or a select field: 8 bits. -/
abbrev Byte := BitVec 8

/-- A digit position, 0 to 8 (00_scope.md R7, R16). -/
abbrev Pos := Fin 9

/-- The nine positions in the order 0, 1, ..., 8 (42_refresh_scheduler.md R109). -/
def allPos : List Pos := [0, 1, 2, 3, 4, 5, 6, 7, 8]

/-- Zero-extension to 32 bits, the spec's `zext_32` (00_scope.md R11). -/
def zext32 {n : Nat} (v : BitVec n) : Word := v.setWidth 32

end Sys2Proof
end

