-- ==== Sys2Proof/Config.lean ====
section
/-! DEFINITION. What one implementation of VFDMUX fixes and the source leaves open (00_scope.md R8, R9,
10_state.md R38), and the free values of the draws (00_scope.md R13). None has a body: no proof can see a value. -/

namespace Sys2Proof

/-- The outcome the bus reports for its initialisation or for a submission (42_refresh_scheduler.md R104, R105). -/
inductive BusStatus where
  | ok
  | fail
  deriving DecidableEq, Repr, Inhabited

/-- How the bus serialises a frame (00_scope.md R9). `other` lists the frame's bit numbers in the order they leave. -/
inductive WireOrder where
  | msbFirst
  | lsbByteFirst
  | other (bits : List (Fin 24))
  deriving DecidableEq, Repr, Inhabited

/-- The open contents of the font tables (40_frame_encoder.md R80, R81). `font` of Machine/Operands.lean
puts on it the two limits the spec sets (R82, R83). Log entry 8. -/
opaque Config.rawFont : Byte → Byte

/-- `DOT_BIT`: the dot segment's bit number, 0 to 7 (00_scope.md R9). Log entry 8. -/
opaque Config.dotBit : Fin 8

/-- `SETUP_EN_LEVEL` (00_scope.md R9, 60_exceptions.md R152). Log entry 10. -/
opaque Config.setupEnLevel : Bool

/-- `SETUP_OE_LEVEL` (00_scope.md R9, 60_exceptions.md R152). Log entry 10. -/
opaque Config.setupOeLevel : Bool

/-- How far the bus queue is deeper than 12. Log entry 10. -/
opaque Config.queueSlack : Nat

/-- `QDEPTH`, at least 12 (00_scope.md R8). No rule of the block reads it. -/
def Config.queueDepth : Nat := 12 + Config.queueSlack

/-- One less than the bus clock. Log entry 10. -/
opaque Config.busClockLess1 : Nat

/-- `BUS_CLOCK_HZ`, a positive integer used by no rule (00_scope.md R9). -/
def Config.busClockHz : Nat := Config.busClockLess1 + 1

/-- `WIRE_ORDER`, used by no rule (20_memory.md R45). Log entry 10. -/
opaque Config.wireOrder : WireOrder

/-- `MAX_XFER_BYTES`: one transfer carries one 24-bit frame (00_scope.md R7, 60_exceptions.md R153). -/
def Config.maxXferBytes : Nat := 3

/-- Free value: the bus's answer to a draw that the state's list `draws` does not hold any more
(00_scope.md R13, 42_refresh_scheduler.md R104, R105). Log entry 3. -/
opaque Config.freeStatus : Nat → BusStatus

/-- Free value: which outstanding transfer the bus agent completes when the list `inputs` names no step
(42_refresh_scheduler.md R111). Log entry 4. -/
opaque Config.freePick : Nat → Nat

end Sys2Proof
end

