-- ==== Sys2Proof/Syntax.lean ====
section
/-! DEFINITION. The nine commands of VFDMUX-CMD v1 (30_encoding.md R66), one constructor per row of
spec/opcode_table.json, with the fields of their formats (R60), and the causes of an illegal command. -/

namespace Sys2Proof

/-- One command with its operands as the word carries them (30_encoding.md R61 to R65). -/
inductive Instr where
  /-- SETUP, format N (42_refresh_scheduler.md R102). -/
  | setup
  /-- SET_DIGIT, format C (40_frame_encoder.md R86). -/
  | setDigit (pos : BitVec 4) (char : Byte) (dot : Bool)
  /-- WRITE_FRAME, format F (41_frame_store.md R92). -/
  | writeFrame (pos : BitVec 4) (frame : Frame)
  /-- SWAP, format N (41_frame_store.md R94). -/
  | swap
  /-- DISPLAY, format N (42_refresh_scheduler.md R108). -/
  | display
  /-- SET_INTENSITY, format I (43_control_status.md R125). -/
  | setIntensity (level : BitVec 4)
  /-- ENCODE, format C (40_frame_encoder.md R85). -/
  | encodeChar (pos : BitVec 4) (char : Byte) (dot : Bool)
  /-- READ_FRAME, format R (41_frame_store.md R96). -/
  | readFrame (pos : BitVec 4) (bank : BitVec 1)
  /-- READ_STATUS, format N (43_control_status.md R127). -/
  | readStatus
  deriving DecidableEq, Repr

/-- The nine assigned opcodes (30_encoding.md R66). -/
inductive Op where
  | setup
  | setDigit
  | writeFrame
  | swap
  | display
  | setIntensity
  | encodeChar
  | readFrame
  | readStatus
  deriving DecidableEq, Repr

/-- The five word formats (30_encoding.md R60). -/
inductive Format where
  | N
  | C
  | F
  | R
  | I
  deriving DecidableEq, Repr

/-- Why a command word is illegal (60_exceptions.md R138). -/
inductive Cause where
  /-- Code 1: `w[31:28]` is 0x0 or 0xA to 0xF. -/
  | reservedOpcode
  /-- Code 2: a bit the format marks 0 is 1. -/
  | reservedField
  /-- Code 3: POS is 9 to 15. -/
  | posRange
  /-- Code 4: SETUP with SETUP_DONE = 1. -/
  | repeatedSetup
  deriving DecidableEq, Repr

/-- The typed view of a frame (30_encoding.md R77, R78). -/
structure FrameFields where
  seg : Byte
  sel : Byte
  low : Byte
  deriving DecidableEq, Repr

end Sys2Proof
end

