-- ==== Sys2Proof/WellFormed.lean ====
section
/-! DEFINITION. Which terms of `Instr` stand for a legal word: a position is 0 to 8 (30_encoding.md R70).
Every other operand may take every value of its field (R65, R73). -/

namespace Sys2Proof

/-- A POS field that names a position of the frame store (30_encoding.md R70, 20_memory.md R46). -/
def posInRange (pos : BitVec 4) : Bool := decide (pos.toNat < 9)

/-- The instruction can be performed: its position, where it has one, is in range. -/
def Instr.wellFormed : Instr → Bool
  | .setup => true
  | .setDigit pos _ _ => posInRange pos
  | .writeFrame pos _ => posInRange pos
  | .swap => true
  | .display => true
  | .setIntensity _ => true
  | .encodeChar pos _ _ => posInRange pos
  | .readFrame pos _ => posInRange pos
  | .readStatus => true

end Sys2Proof
end

