-- ==== Sys2Proof/Decode.lean ====
section
/-! DEFINITION. Decoding a command word (30_encoding.md R59 to R73), total and rejecting by cause in the order of
R67; the encoder from the same formats; and the entry the host's table check calls. -/

namespace Sys2Proof

/-- The cause codes of 60_exceptions.md R138. -/
def Cause.code : Cause → BitVec 4
  | .reservedOpcode => 1
  | .reservedField => 2
  | .posRange => 3
  | .repeatedSetup => 4

/-! ### The fields of a command word (R59 to R65) -/

/-- `OP = w[31:28]` (R59). -/
def opField (w : Word) : BitVec 4 := w.extractLsb' 28 4

/-- `POS = w[27:24]`, formats C, F and R. -/
def posField (w : Word) : BitVec 4 := w.extractLsb' 24 4

/-- `DOT = w[8]`, format C (R62). -/
def dotField (w : Word) : Bool := w.getLsbD 8

/-- `CHAR = w[7:0]`, format C (R62). -/
def charField (w : Word) : Byte := w.extractLsb' 0 8

/-- `FRAME = w[23:0]`, format F (R63). -/
def frameField (w : Word) : Frame := w.extractLsb' 0 24

/-- `BANK = w[0]`, format R (R64). -/
def bankField (w : Word) : BitVec 1 := w.extractLsb' 0 1

/-- `LEVEL = w[3:0]`, format I (R65). -/
def levelField (w : Word) : BitVec 4 := w.extractLsb' 0 4

/-! ### The opcode map (R66) -/

/-- The row of an opcode; none for the reserved ones (R66, R68). -/
def opOf (o : BitVec 4) : Option Op :=
  match o.toNat with
  | 1 => some .setup
  | 2 => some .setDigit
  | 3 => some .writeFrame
  | 4 => some .swap
  | 5 => some .display
  | 6 => some .setIntensity
  | 7 => some .encodeChar
  | 8 => some .readFrame
  | 9 => some .readStatus
  | _ => none

/-- The opcode of a row (R66). -/
def Op.code : Op → BitVec 4
  | .setup => 0x1
  | .setDigit => 0x2
  | .writeFrame => 0x3
  | .swap => 0x4
  | .display => 0x5
  | .setIntensity => 0x6
  | .encodeChar => 0x7
  | .readFrame => 0x8
  | .readStatus => 0x9

/-- The format of a row (R66). -/
def Op.format : Op → Format
  | .setup => .N
  | .setDigit => .C
  | .writeFrame => .F
  | .swap => .N
  | .display => .N
  | .setIntensity => .I
  | .encodeChar => .C
  | .readFrame => .R
  | .readStatus => .N

/-- The mask column of R66: the opcode and the bits the format marks 0. -/
def Op.mask : Op → Word
  | .setup => 0xFFFFFFFF
  | .setDigit => 0xF0FFFE00
  | .writeFrame => 0xF0000000
  | .swap => 0xFFFFFFFF
  | .display => 0xFFFFFFFF
  | .setIntensity => 0xFFFFFFF0
  | .encodeChar => 0xF0FFFE00
  | .readFrame => 0xF0FFFFFE
  | .readStatus => 0xFFFFFFFF

/-- The match column of R66. -/
def Op.pattern : Op → Word
  | .setup => 0x10000000
  | .setDigit => 0x20000000
  | .writeFrame => 0x30000000
  | .swap => 0x40000000
  | .display => 0x50000000
  | .setIntensity => 0x60000000
  | .encodeChar => 0x70000000
  | .readFrame => 0x80000000
  | .readStatus => 0x90000000

/-- Whether a format carries POS (R60). -/
def Format.hasPos : Format → Bool
  | .N => false
  | .C => true
  | .F => true
  | .R => true
  | .I => false

/-- The command a row reads from a word (R61 to R65). -/
def Op.read (o : Op) (w : Word) : Instr :=
  match o with
  | .setup => .setup
  | .setDigit => .setDigit (posField w) (charField w) (dotField w)
  | .writeFrame => .writeFrame (posField w) (frameField w)
  | .swap => .swap
  | .display => .display
  | .setIntensity => .setIntensity (levelField w)
  | .encodeChar => .encodeChar (posField w) (charField w) (dotField w)
  | .readFrame => .readFrame (posField w) (bankField w)
  | .readStatus => .readStatus

/-- The checks of R67 in its order: opcode, reserved bits, position. The fourth check, a repeated SETUP, reads
the state and stands in SETUP's meaning. -/
def decode (w : Word) : Except Cause Instr :=
  match opOf (opField w) with
  | none => .error .reservedOpcode
  | some o =>
    if w &&& o.mask ≠ o.pattern then .error .reservedField
    else if o.format.hasPos && !posInRange (posField w) then .error .posRange
    else .ok (o.read w)

/-! ### The encoder (R60, R66) -/

/-- `POS` in its place, bits 27 to 24. -/
def placePos (pos : BitVec 4) : Word := zext32 pos <<< 24

/-- Format N: the row's match word. -/
def wordN (o : Op) : Word := o.pattern

/-- Format C: `oooo pppp 0000 0000 0000 000d cccc cccc`. -/
def wordC (o : Op) (pos : BitVec 4) (dot : Bool) (char : Byte) : Word :=
  o.pattern ||| placePos pos ||| (zext32 (BitVec.ofBool dot) <<< 8) ||| zext32 char

/-- Format F: `oooo pppp` and 24 frame bits. -/
def wordF (o : Op) (pos : BitVec 4) (frame : Frame) : Word := o.pattern ||| placePos pos ||| zext32 frame

/-- Format R: `oooo pppp`, 23 zeros, the bank bit. -/
def wordR (o : Op) (pos : BitVec 4) (bank : BitVec 1) : Word := o.pattern ||| placePos pos ||| zext32 bank

/-- Format I: the opcode, 24 zeros, the level. -/
def wordI (o : Op) (level : BitVec 4) : Word := o.pattern ||| zext32 level

/-- The row of an instruction (R66). -/
def Instr.op : Instr → Op
  | .setup => .setup
  | .setDigit _ _ _ => .setDigit
  | .writeFrame _ _ => .writeFrame
  | .swap => .swap
  | .display => .display
  | .setIntensity _ => .setIntensity
  | .encodeChar _ _ _ => .encodeChar
  | .readFrame _ _ => .readFrame
  | .readStatus => .readStatus

/-- The word of an instruction (R60, R66). -/
def encode (i : Instr) : Word :=
  match i with
  | .setup => wordN .setup
  | .setDigit pos char dot => wordC .setDigit pos dot char
  | .writeFrame pos frame => wordF .writeFrame pos frame
  | .swap => wordN .swap
  | .display => wordN .display
  | .setIntensity level => wordI .setIntensity level
  | .encodeChar pos char dot => wordC .encodeChar pos dot char
  | .readFrame pos bank => wordR .readFrame pos bank
  | .readStatus => wordN .readStatus

/-! ### The host's table check -/

/-- A word of the opcode table as a command word: bit 0 is the least significant, bits from `nbits` up are 0 (R72:
every command is exactly one 32-bit word). -/
def tableWord (nbits w : Nat) : Word := BitVec.ofNat 32 (w % 2 ^ nbits)

/-- The instruction the decoder reads from a word of the opcode table; none where it rejects. -/
def decodeTableWord (nbits w : Nat) : Option Instr :=
  match decode (tableWord nbits w) with
  | .ok i => some i
  | .error _ => none

end Sys2Proof
end

