-- ==== Sys2Proof/Machine/State.lean ====
section
/-! DEFINITION. The state of VFDMUX (10_state.md R20), its reset value (R41), and the reasons a step can stop. -/

namespace Sys2Proof.Machine

/-- `RSTATE` (10_state.md R26). -/
inductive RState where
  | idle
  | refreshing
  deriving DecidableEq, Repr

/-- The level of an output line; `z` is not yet set to output mode (10_state.md R36). -/
inductive PinLevel where
  | z
  | low
  | high
  deriving DecidableEq, Repr

/-- An event of the history (10_state.md R37). -/
inductive Event where
  /-- A command word and its response. -/
  | cmd (w : Word) (err : Bool) (data : Word)
  /-- The bus initialisation outcome at SETUP. -/
  | busInit (st : BusStatus)
  /-- A submission of frame `f` for position `p`, with its outcome. -/
  | submit (p : Pos) (f : Frame) (st : BusStatus)
  /-- The transfer of frame `f` for position `p` has finished shifting. -/
  | complete (p : Pos) (f : Frame)
  | latchHigh (p : Pos)
  | latchLow (p : Pos)
  | reset
  deriving DecidableEq, Repr

/-- What one of the three agents does next (00_scope.md R6). Log entry 1. -/
inductive Input where
  /-- The host presents a command word (30_encoding.md R58). -/
  | command (w : Word)
  /-- The bus agent reports that the transfer for `p` has finished (42_refresh_scheduler.md R110). -/
  | complete (p : Pos)
  /-- Reset (70_reset_and_hazards.md R157). -/
  | reset
  deriving DecidableEq, Repr

/-- One bank: nine frames, one per position (10_state.md R22). -/
abbrev Bank := Vector Frame 9

/-- The state: the spec's elements of R20, then the model's own three fields. -/
structure State where
  /-- `BANK[b][p]` (R22, R23). -/
  bank : Vector Bank 2
  /-- `ACTIVE` (R24). -/
  active : BitVec 1
  /-- `RSTATE` (R26). -/
  rstate : RState
  /-- `OUT[p]` (R32). -/
  out : Vector Bool 9
  /-- `XFER[p]`, or no value (R33). -/
  xfer : Vector (Option Frame) 9
  /-- `BUS_READY` (R29). -/
  busReady : Bool
  /-- `SETUP_DONE` (R29). -/
  setupDone : Bool
  /-- `INTENSITY` (R28). -/
  intensity : BitVec 4
  /-- `ILL` (R30). -/
  ill : Bool
  /-- `LAST_CAUSE` (R30). -/
  lastCause : BitVec 4
  /-- `SUBMIT_ERR` (R30). -/
  submitErr : Bool
  /-- `PIN_EN` (R36). -/
  pinEn : PinLevel
  /-- `PIN_OE` (R36). -/
  pinOe : PinLevel
  /-- `PIN_LATCH` (R36). -/
  pinLatch : PinLevel
  /-- `HIST`, oldest event first (R37). -/
  hist : List Event
  /-- The MODEL's own: the agents' steps to come, next one first. DESIGN CHOICE, log entry 1. -/
  inputs : List Input
  /-- The MODEL's own: the bus's answers to come, next one first. DESIGN CHOICE, log entry 3. -/
  draws : List BusStatus
  /-- The MODEL's own: how many free values were taken. DESIGN CHOICE, log entry 3. -/
  drawIndex : Nat
  deriving DecidableEq, Repr

/-- The reset state: every element of R20 at its value in 10_state.md R41. The model's own fields start empty
(DESIGN CHOICE, log entries 1 and 3). -/
def State.reset : State where
  bank := Vector.replicate 2 (Vector.replicate 9 0x000000#24)
  active := 0
  rstate := .idle
  out := Vector.replicate 9 false
  xfer := Vector.replicate 9 none
  busReady := false
  setupDone := false
  intensity := 0
  ill := false
  lastCause := 0
  submitErr := false
  pinEn := .z
  pinOe := .z
  pinLatch := .z
  hist := [.reset]
  inputs := []
  draws := []
  drawIndex := 0

/-- Why the model stops with a fault. -/
inductive Fault where
  /-- Raised by the completion step: OUT[p] = 1 and XFER[p] has no value. Invariant I-b excludes it (10_state.md R40;
  93_implementation_defined.md item 29, "never happens"). SAFE: no state a run reaches raises it. Log entry 6. -/
  | payloadMissing
  deriving DecidableEq, Repr

/-- Why the model has no step. -/
inductive Refusal where
  /-- Raised by an arm of exec that has no meaning yet. SAFE. No arm does so. -/
  | notModelled (mnemonic : String)
  /-- Raised by the completion step: OUT[p] = 0, a spurious or stale completion, which the bus contract excludes
  (42_refresh_scheduler.md R103(c), 70_reset_and_hazards.md R157; 93_implementation_defined.md items 27 and 28,
  "refuse: no step"). UNSAFE where a real bus made one (92_eei_decisions.md D21, D27). Log entry 5. -/
  | noSuchTransfer
  deriving DecidableEq, Repr

/-- How a step or an instruction ends. -/
abbrev Result := Host.Outcome State Fault Refusal

end Sys2Proof.Machine
end

