-- ==== Sys2Proof/Machine/Flags.lean ====
section
/-! DEFINITION. The status bits (10_state.md R31) and the word that shows them (43_control_status.md R127, R130). -/

namespace Sys2Proof.Machine

/-- The value of `RSTATE`: `IDLE` = 0, `REFRESHING` = 1 (10_state.md R26). -/
def RState.bit : RState → BitVec 1
  | .idle => 0
  | .refreshing => 1

/-- 1 when the line is at 1, 0 when it is at 0 or `Z` (43_control_status.md R127). -/
def PinLevel.bit : PinLevel → BitVec 1
  | .z => 0
  | .low => 0
  | .high => 1

/-- The level a parameter of 0 or 1 drives onto a line (42_refresh_scheduler.md R102). -/
def PinLevel.ofBool : Bool → PinLevel
  | false => .low
  | true => .high

/-- `BUS_READY`'s new value at SETUP (42_refresh_scheduler.md R102). -/
def readyOf : BusStatus → Bool
  | .ok => true
  | .fail => false

/-- `OUT[8:0]`, bit `p` is `OUT[p]` (43_control_status.md R127). -/
def outBits (out : Vector Bool 9) : BitVec 9 := BitVec.ofFnLE fun p => out.get p

/-- `STATUS`: each field at its place, bits 7 and 27 to 31 zero (43_control_status.md R127, R130). -/
def State.status (s : State) : Word :=
  zext32 s.active ||| (zext32 s.rstate.bit <<< 1) ||| (zext32 (BitVec.ofBool s.busReady) <<< 2) |||
    (zext32 (BitVec.ofBool s.setupDone) <<< 3) ||| (zext32 (BitVec.ofBool s.ill) <<< 4) |||
    (zext32 (BitVec.ofBool s.submitErr) <<< 5) ||| (zext32 s.pinLatch.bit <<< 6) |||
    (zext32 s.intensity <<< 8) ||| (zext32 s.lastCause <<< 12) ||| (zext32 (outBits s.out) <<< 16) |||
    (zext32 s.pinEn.bit <<< 25) ||| (zext32 s.pinOe.bit <<< 26)

end Sys2Proof.Machine
end

