-- ==== Sys2Proof/Machine/Operands.lean ====
section
/-! DEFINITION. Operand forms and the frame encoder's pure functions: positions, the character set, the font,
`Encode` and its decode half (00_scope.md R10, 30_encoding.md R73, R77, R78, 40_frame_encoder.md R80 to R91). -/

namespace Sys2Proof.Machine

/-- The position a POS field names; none for 9 to 15 (30_encoding.md R70). -/
def posOf (pos : BitVec 4) : Option Pos :=
  if h : pos.toNat < 9 then some ⟨pos.toNat, h⟩ else none

/-- The POS field of a position (30_encoding.md R73). -/
def posBits (p : Pos) : BitVec 4 := BitVec.ofNat 4 p.val

/-- `PUNCT` (00_scope.md R10): ! " ' \ ` @ _ -, by ASCII code. Log entry 9. -/
def punct : List Byte := [0x21, 0x22, 0x27, 0x5C, 0x60, 0x40, 0x5F, 0x2D]

/-- Membership in `MAPPED` (00_scope.md R10). -/
def mapped (c : Byte) : Bool :=
  (decide (0x30 ≤ c) && decide (c ≤ 0x39)) || (decide (0x61 ≤ c) && decide (c ≤ 0x7A)) ||
    (decide (0x41 ≤ c) && decide (c ≤ 0x5A)) || punct.contains c

/-- The segment byte with only the dot lit. -/
def dotSegment (dotBit : Fin 8) : Byte := 1#8 <<< dotBit.val

/-- `FONT`: the open table under its two limits, blank outside `MAPPED` (40_frame_encoder.md R82) and no base
pattern lights the dot (R83). Every table that meets the two is one of these. Log entry 8. -/
def font (c : Byte) : Byte :=
  if mapped c then Config.rawFont c &&& ~~~(dotSegment Config.dotBit) else 0x00

/-- The segment byte of a character and a dot flag (40_frame_encoder.md R84), for any table. -/
def segmentOf (table : Byte → Byte) (dotBit : Fin 8) (c : Byte) (d : Bool) : Byte :=
  if d then table c ||| dotSegment dotBit else table c

/-- The select field: `(zext_16(1) << p)[7:0]`, zero for position 8 (40_frame_encoder.md R84, R88). -/
def selectOf (p : Pos) : Byte := (1#16 <<< p.val).setWidth 8

/-- `Encode(p, c, d)` for any font table and dot bit (40_frame_encoder.md R84). -/
def encodeFrameWith (table : Byte → Byte) (dotBit : Fin 8) (p : Pos) (c : Byte) (d : Bool) : Frame :=
  ((segmentOf table dotBit c d).setWidth 24 <<< 16) ||| ((selectOf p).setWidth 24 <<< 8)

/-- `Encode(p, c, d)` with the block's own font and dot bit (40_frame_encoder.md R84). -/
def encodeFrame (p : Pos) (c : Byte) (d : Bool) : Frame := encodeFrameWith font Config.dotBit p c d

/-- `decodeFrame(f)` (30_encoding.md R78). -/
def decodeFrame (f : Frame) : FrameFields where
  seg := f.extractLsb' 16 8
  sel := f.extractLsb' 8 8
  low := f.extractLsb' 0 8

/-- The position a frame selects: `p` in 0 to 7 when `SEL = 1 << p`; none when `SEL = 0`, which is position 8 or no
position (30_encoding.md R78), and none when several select bits are set. -/
def selectedPosition (f : Frame) : Option Pos :=
  (allPos.filter fun p => decide (p.val < 8)).find? fun p => selectOf p = (decodeFrame f).sel

end Sys2Proof.Machine
end

