-- ==== Sys2Proof/Machine/Ops.lean ====
section
/-! DEFINITION. The named operations the meanings share: the frame store (20_memory.md R43), the history, responses,
draws (00_scope.md R13), taking an illegal command (60_exceptions.md R140) and submission (42_refresh_scheduler.md
R107). Returning from an exception is nothing: no handler is entered and nothing is saved (60_exceptions.md R147,
R148). -/

namespace Sys2Proof.Machine

/-! ### The frame store -/

/-- A bank index as a place in the store. -/
def bankIndex (b : BitVec 1) : Fin 2 := b.toFin

/-- `MemRead((b, p), 3)` (20_memory.md R43). -/
def State.memRead (s : State) (b : BitVec 1) (p : Pos) : Frame := (s.bank.get (bankIndex b)).get p

/-- `MemWrite((b, p), 3, v)` (20_memory.md R43). -/
def State.memWrite (s : State) (b : BitVec 1) (p : Pos) (v : Frame) : State :=
  { s with bank := s.bank.set (bankIndex b) ((s.bank.get (bankIndex b)).set p v) }

/-- `PENDING = 1 - ACTIVE`, computed when it is read (10_state.md R27). -/
def State.pending (s : State) : BitVec 1 := 1 - s.active

/-- `ACTIVE <- 1 - ACTIVE` (20_memory.md R53). -/
def State.flipActive (s : State) : State := { s with active := 1 - s.active }

/-! ### Events and responses -/

/-- `emit E` (00_scope.md R13). -/
def State.emit (s : State) (e : Event) : State := { s with hist := s.hist ++ [e] }

/-- `respond(d)`: the command's response, and the `Cmd` event that ends its step (00_scope.md R13, 30_encoding.md R75).
DEDUCED that the event is the step's last: log entry 12. -/
def State.respond (s : State) (i : Instr) (d : Word) : State := s.emit (.cmd (encode i) false d)

/-- `raise Illegal(cause)` for the command word `w` (60_exceptions.md R140): the one way an exception is taken. -/
def State.illegal (s : State) (w : Word) (c : Cause) : State :=
  { s with ill := true, lastCause := c.code, hist := s.hist ++ [.cmd w true (zext32 c.code)] }

/-! ### Draws -/

/-- The bus's answer to the `k`-th draw from here: the state's list, then the free value (00_scope.md R13, log entry 3). -/
def State.drawAt (s : State) (k : Nat) : BusStatus := s.draws.getD k (Config.freeStatus (s.drawIndex + k))

/-- One draw is used up. -/
def State.popDraw (s : State) : State := { s with draws := s.draws.tail, drawIndex := s.drawIndex + 1 }

/-! ### Transfers -/

/-- The bus accepted the transfer of `f` for `p` (42_refresh_scheduler.md R107). -/
def State.markOutstanding (s : State) (p : Pos) (f : Frame) : State :=
  { s with out := s.out.set p true, xfer := s.xfer.set p (some f) }

/-- The transfer for `p` has finished (42_refresh_scheduler.md R110). -/
def State.clearTransfer (s : State) (p : Pos) : State :=
  { s with out := s.out.set p false, xfer := s.xfer.set p none }

/-- `SUBMIT_ERR <- 1` (10_state.md R30). -/
def State.flagSubmitErr (s : State) : State := { s with submitErr := true }

/-- `PIN_LATCH <- level` (10_state.md R36). -/
def State.setLatch (s : State) (level : PinLevel) : State := { s with pinLatch := level }

/-- The outcome of the `k`-th submission from here: FAIL while `BUS_READY = 0`, else a draw
(42_refresh_scheduler.md R105). -/
def State.outcomeAt (s : State) (k : Nat) : BusStatus := if s.busReady then s.drawAt k else .fail

/-- The outcome of the next submission (42_refresh_scheduler.md R105, R107). -/
def State.submitStatus (s : State) : BusStatus := s.outcomeAt 0

/-- The draw of a submission is used up; with `BUS_READY = 0` there is none (42_refresh_scheduler.md R107). -/
def State.popSubmitDraw (s : State) : State := if s.busReady then s.popDraw else s

/-- `Submit(p)` (42_refresh_scheduler.md R107). -/
def State.submit (s : State) (p : Pos) : State :=
  match s.submitStatus with
  | .ok =>
    (s.popSubmitDraw.emit (.submit p (s.memRead s.active p) .ok)).markOutstanding p (s.memRead s.active p)
  | .fail => (s.popSubmitDraw.emit (.submit p (s.memRead s.active p) .fail)).flagSubmitErr

/-- The nine submissions of the first DISPLAY, in position order (42_refresh_scheduler.md R108, R109). -/
def State.submitAll (s : State) : State := allPos.foldl State.submit s

/-! ### Operands of a command that carries a position -/

/-- Performs `f` at the position the field names, or takes Illegal(POS_RANGE) for the command `i`
(30_encoding.md R70). -/
def State.withPos (s : State) (i : Instr) (pos : BitVec 4) (f : Pos → State) : State :=
  match posOf pos with
  | some p => f p
  | none => s.illegal (encode i) .posRange

/-! ### What can be read off a state -/

/-- The positions with a transfer outstanding, in position order (10_state.md R32). -/
def State.outstanding (s : State) : List Pos := allPos.filter fun p => s.out.get p

/-- A stalled position (00_scope.md R16, 42_refresh_scheduler.md R116). -/
def State.stalled (s : State) (p : Pos) : Bool := decide (s.rstate = .refreshing) && !s.out.get p

end Sys2Proof.Machine
end

