-- ==== Sys2Proof/Machine/Control.lean ====
section
/-! DEFINITION. Control and status: SET_INTENSITY and READ_STATUS (43_control_status.md). -/

namespace Sys2Proof.Machine

/-- `INTENSITY <- LEVEL` (43_control_status.md R125). -/
def State.setLevel (s : State) (level : BitVec 4) : State := { s with intensity := level }

/-- SET_INTENSITY: stores the level, which changes no output (43_control_status.md R125, R126). -/
def execSetIntensity (level : BitVec 4) (s : State) : Result :=
  .next ((s.setLevel level).respond (.setIntensity level) (zext32 level))

/-- READ_STATUS: answers STATUS and clears nothing (43_control_status.md R127, R129). -/
def execReadStatus (s : State) : Result := .next (s.respond .readStatus s.status)

end Sys2Proof.Machine
end

