-- ==== Sys2Proof/Machine/Encoder.lean ====
section
/-! DEFINITION. The Frame Encoder's commands: ENCODE and SET_DIGIT (40_frame_encoder.md). -/

namespace Sys2Proof.Machine

/-- ENCODE: answers the frame and stores nothing (40_frame_encoder.md R85). -/
def execEncodeChar (pos : BitVec 4) (char : Byte) (dot : Bool) (s : State) : Result :=
  .next (s.withPos (.encodeChar pos char dot) pos fun p =>
    s.respond (.encodeChar pos char dot) (zext32 (encodeFrame p char dot)))

/-- SET_DIGIT: encodes into the pending bank (40_frame_encoder.md R86). -/
def execSetDigit (pos : BitVec 4) (char : Byte) (dot : Bool) (s : State) : Result :=
  .next (s.withPos (.setDigit pos char dot) pos fun p =>
    (s.memWrite s.pending p (encodeFrame p char dot)).respond (.setDigit pos char dot)
      (zext32 (encodeFrame p char dot)))

end Sys2Proof.Machine
end

