-- ==== Sys2Proof/Machine/Refresh.lean ====
section
/-! DEFINITION. The Refresh Scheduler: SETUP, DISPLAY and the completion step (42_refresh_scheduler.md). -/

namespace Sys2Proof.Machine

/-- What an accepted SETUP does before it answers, `st` being the bus initialisation outcome
(42_refresh_scheduler.md R102). -/
def State.setUp (s : State) (st : BusStatus) : State :=
  { s.popDraw.emit (.busInit st) with
    setupDone := true
    pinEn := .ofBool Config.setupEnLevel
    pinOe := .ofBool Config.setupOeLevel
    pinLatch := .low
    busReady := readyOf st }

/-- SETUP: drives the lines and initialises the bus, once (42_refresh_scheduler.md R102, R104). -/
def execSetup (s : State) : Result :=
  .next (
    if s.setupDone then s.illegal (encode .setup) .repeatedSetup
    else (s.setUp (s.drawAt 0)).respond .setup (zext32 (BitVec.ofBool (s.setUp (s.drawAt 0)).busReady)))

/-- What DISPLAY does before it answers: the swap, and from IDLE the start of refresh (42_refresh_scheduler.md R108). -/
def State.trigger (s : State) : State :=
  match s.rstate with
  | .idle => ({ s.flipActive with rstate := .refreshing } : State).submitAll
  | .refreshing => s.flipActive

/-- DISPLAY: swaps and, the first time, starts refresh (42_refresh_scheduler.md R108, R118). -/
def execDisplay (s : State) : Result :=
  .next (s.trigger.respond .display (zext32 s.trigger.active))

/-- Step 2 of the completion step: re-submits the position while refresh runs (42_refresh_scheduler.md R110). -/
def State.resubmit (s : State) (p : Pos) : State :=
  match s.rstate with
  | .idle => s
  | .refreshing => s.submit p

/-- The completion step for `p`, whose transfer carried `f` (42_refresh_scheduler.md R110). -/
def State.completed (s : State) (p : Pos) (f : Frame) : State :=
  ((((((s.clearTransfer p).emit (.complete p f)).setLatch .high).emit (.latchHigh p)).resubmit p).setLatch .low).emit
    (.latchLow p)

/-- The bus agent reports that the transfer for `p` has finished: enabled while `OUT[p] = 1`, else it has no step
(42_refresh_scheduler.md R103, R110; log entries 5 and 6). -/
def completionStep (p : Pos) (s : State) : Result :=
  if s.out.get p then
    match s.xfer.get p with
    | some f => .next (s.completed p f)
    | none => .fault .payloadMissing
  else .refused .noSuchTransfer

end Sys2Proof.Machine
end

