-- ==== Sys2Proof/Machine/Store.lean ====
section
/-! DEFINITION. The Double Buffer Store's commands: WRITE_FRAME, SWAP and READ_FRAME (41_frame_store.md). -/

namespace Sys2Proof.Machine

/-- WRITE_FRAME: stores the frame as given in the pending bank (41_frame_store.md R92, R93). -/
def execWriteFrame (pos : BitVec 4) (frame : Frame) (s : State) : Result :=
  .next (s.withPos (.writeFrame pos frame) pos fun p =>
    (s.memWrite s.pending p frame).respond (.writeFrame pos frame) (zext32 frame))

/-- SWAP: inverts ACTIVE and answers the new index (41_frame_store.md R94). -/
def execSwap (s : State) : Result :=
  .next (s.flipActive.respond .swap (zext32 s.flipActive.active))

/-- READ_FRAME: answers the frame at the position of either bank (41_frame_store.md R96). -/
def execReadFrame (pos : BitVec 4) (bank : BitVec 1) (s : State) : Result :=
  .next (s.withPos (.readFrame pos bank) pos fun p =>
    s.respond (.readFrame pos bank) (zext32 (s.memRead bank p)))

end Sys2Proof.Machine
end

