-- ==== Sys2Proof/Machine/Dispatch.lean ====
section
/-! DEFINITION. The opcode map's last column: one arm per command, each one call of its meaning
(30_encoding.md R66). -/

namespace Sys2Proof.Machine

def exec (i : Instr) (s : State) : Host.Outcome State Fault Refusal :=
  match i with
  | .setup => Sys2Proof.Machine.execSetup s
  | .setDigit pos char dot => Sys2Proof.Machine.execSetDigit pos char dot s
  | .writeFrame pos frame => Sys2Proof.Machine.execWriteFrame pos frame s
  | .swap => Sys2Proof.Machine.execSwap s
  | .display => Sys2Proof.Machine.execDisplay s
  | .setIntensity level => Sys2Proof.Machine.execSetIntensity level s
  | .encodeChar pos char dot => Sys2Proof.Machine.execEncodeChar pos char dot s
  | .readFrame pos bank => Sys2Proof.Machine.execReadFrame pos bank s
  | .readStatus => Sys2Proof.Machine.execReadStatus s

end Sys2Proof.Machine
end

