-- ==== Sys2Proof/Machine/Agents.lean ====
section
/-! DEFINITION. The atomic steps of the three agents (00_scope.md R6, 20_memory.md R50): a command of the host, a
completion of the bus agent, reset; and which step is taken when the schedule names none. -/

namespace Sys2Proof.Machine

/-- One command word at the port: decoded in the order of 30_encoding.md R67, then performed, or taken as an illegal
command (60_exceptions.md R140). -/
def commandStep (w : Word) (s : State) : Result :=
  match decode w with
  | .ok i => exec i s
  | .error c => .next (s.illegal w c)

/-- Reset (70_reset_and_hazards.md R157): every element at its reset value. What the agents will do next is theirs and
not the block's, so the model's own fields stay (log entry 11). -/
def resetStep (s : State) : State :=
  { State.reset with inputs := s.inputs, draws := s.draws, drawIndex := s.drawIndex }

/-- One step of an agent. -/
def inputStep (e : Input) (s : State) : Result :=
  match e with
  | .command w => commandStep w s
  | .complete p => completionStep p s
  | .reset => .next (resetStep s)

/-- The schedule names no step. With a transfer outstanding the bus agent always has one, and completes any of them, a
free choice (42_refresh_scheduler.md R111, 70_reset_and_hazards.md R174); otherwise the block waits (R159).
Log entry 4. -/
def quietStep (s : State) : Result :=
  match s.outstanding with
  | [] => .next s
  | p :: ps =>
    completionStep ((p :: ps).getD (Config.freePick s.drawIndex % (ps.length + 1)) p)
      { s with drawIndex := s.drawIndex + 1 }

/-- The next step of the schedule. -/
def takeStep (s : State) : Result :=
  match s.inputs with
  | e :: rest => inputStep e { s with inputs := rest }
  | [] => quietStep s

/-- The state with a command word at the head of the command port: what the next step performs. -/
def State.offer (s : State) (w : Word) : State := { s with inputs := .command w :: s.inputs }

end Sys2Proof.Machine
end

