-- ==== Sys2Proof/Machine/Step.lean ====
section
/-! DEFINITION. One step of the machine, and how a word of the opcode table is presented to it. -/

namespace Sys2Proof.Machine

/-- One atomic step of whichever agent moves next (20_memory.md R50). -/
def step (s : State) : Host.Outcome State Fault Refusal := takeStep s

/-- `s` with a word of the opcode table at the head of the command port, so that the next step performs it.
VFDMUX fetches nothing (10_state.md R21): the host presents each command (30_encoding.md R58). Log entry 2. -/
def State.withFetchWord (s : State) (nbits w : Nat) : State := s.offer (tableWord nbits w)

end Sys2Proof.Machine
end

