-- ==== Sys2Proof/Machine/HostOps.lean ====
section
/-! DEFINITION. The host's pseudo-operations: fixed expansions into commands, which are all the block sees
(44_host_pseudo_ops.md R131 to R135, 30_encoding.md R79). Log entry 19. -/

namespace Sys2Proof.Machine

/-- The code of `'.'` (00_scope.md R14). -/
def dotChar : Byte := 0x2E

/-- SET_DIGIT at the physical position of the logical counter `i`, `7 - i` (44_host_pseudo_ops.md R131). -/
def digitAt (i : Nat) (c : Byte) (dot : Bool) : Instr := .setDigit (BitVec.ofNat 4 (7 - i)) c dot

/-- The loop of PRINT_AT: `i` is the logical counter, and a '.' after a character is that character's dot
(44_host_pseudo_ops.md R131 to R133). -/
def placeChars (i : Nat) : List Byte → List Instr
  | [] => []
  | [c] => if i < 8 then [digitAt i c false] else []
  | c :: t :: rest =>
    if i < 8 then
      if t = dotChar then digitAt i c true :: placeChars (i + 1) rest
      else digitAt i c false :: placeChars (i + 1) (t :: rest)
    else []

/-- `PRINT_AT start, text`; none for a text that holds a NUL, which R131 excludes (44_host_pseudo_ops.md R131). -/
def printAt (start : Nat) (text : List Byte) : Option (List Instr) :=
  if text.contains 0 then none else some (placeChars start text ++ [.display])

/-- `PRINT text` is `PRINT_AT 0, text` (44_host_pseudo_ops.md R135). -/
def print (text : List Byte) : Option (List Instr) := printAt 0 text

/-- `SETDIGIT pos, char` is SET_DIGIT with DOT = 0 (44_host_pseudo_ops.md R135). -/
def setDigitPlain (pos : BitVec 4) (char : Byte) : Instr := .setDigit pos char false

/-- Commands performed one after the other, with nothing between them. -/
def performAll : List Instr → State → Result
  | [], s => .next s
  | i :: rest, s =>
    match exec i s with
    | .next t => performAll rest t
    | .fault r => .fault r
    | .refused r => .refused r

/-- Agents' steps taken one after the other. -/
def runInputs : List Input → State → Result
  | [], s => .next s
  | e :: rest, s =>
    match inputStep e s with
    | .next t => runInputs rest t
    | .fault r => .fault r
    | .refused r => .refused r

end Sys2Proof.Machine
end

