-- ==== Sys2Proof/Machine/Assembler.lean ====
section
/-! DEFINITION. The assembler syntax: one command or pseudo-operation a line, as ASCII codes (30_encoding.md R74, R79,
00_scope.md R14). What the spec leaves open of the lexical form is a DESIGN CHOICE: log entry 20. -/

namespace Sys2Proof.Machine

/-- A token of a line. -/
inductive Token where
  | name (codes : List Byte)
  | glyph (code : Byte)
  | text (codes : List Byte)
  | comma
  deriving DecidableEq, Repr

/-- Inside a name (or between tokens), or inside a quoted text; the codes read so far, last first. -/
inductive LexMode where
  | name (acc : List Byte)
  | text (acc : List Byte)
  deriving DecidableEq, Repr

/-- Ends the name being read, if there is one. -/
def flushName (acc : List Byte) (rest : List Token) : List Token :=
  match acc with
  | [] => rest
  | c :: cs => .name (c :: cs).reverse :: rest

/-- The tokens of a line: names and numbers between blanks and commas, a glyph in single quotes, a text in double
quotes. None where a text is not closed. -/
def lex : LexMode → List Byte → Option (List Token)
  | .name acc, [] => some (flushName acc [])
  | .name acc, 0x27#8 :: c :: 0x27#8 :: rest =>
    (lex (.name []) rest).map fun ts => flushName acc (.glyph c :: ts)
  | .name acc, c :: rest =>
    if c = 0x22 then (lex (.text []) rest).map (flushName acc)
    else if c = 0x2C then (lex (.name []) rest).map fun ts => flushName acc (.comma :: ts)
    else if c = 0x20 ∨ c = 0x09 then (lex (.name []) rest).map (flushName acc)
    else lex (.name (c :: acc)) rest
  | .text _, [] => none
  | .text acc, c :: rest =>
    if c = 0x22 then (lex (.name []) rest).map fun ts => .text acc.reverse :: ts
    else lex (.text (c :: acc)) rest

/-- The operands of a line, which commas separate. -/
def operands : List Token → Option (List Token)
  | [] => some []
  | [t] => if t = .comma then none else some [t]
  | t :: sep :: rest =>
    if t = .comma ∨ sep ≠ .comma ∨ rest = [] then none else (operands rest).map (t :: ·)

/-- The value of a digit in a base of 10 or 16. -/
def digitValue (base : Nat) (c : Byte) : Option Nat :=
  let v : Option Nat :=
    if 0x30 ≤ c ∧ c ≤ 0x39 then some (c.toNat - 0x30)
    else if 0x41 ≤ c ∧ c ≤ 0x46 then some (c.toNat - 0x41 + 10)
    else if 0x61 ≤ c ∧ c ≤ 0x66 then some (c.toNat - 0x61 + 10)
    else none
  v.filter fun n => decide (n < base)

/-- The value of digits read from the left. -/
def digitsValue (base acc : Nat) : List Byte → Option Nat
  | [] => some acc
  | c :: cs =>
    match digitValue base c with
    | some d => digitsValue base (acc * base + d) cs
    | none => none

/-- A number, decimal or `0x` hexadecimal (30_encoding.md R74). -/
def numberOf : Token → Option Nat
  | .name (0x30#8 :: 0x78#8 :: c :: cs) => digitsValue 16 0 (c :: cs)
  | .name (c :: cs) => digitsValue 10 0 (c :: cs)
  | .name [] => none
  | .glyph _ => none
  | .text _ => none
  | .comma => none

/-- A number that fits a field of `n` bits. -/
def fieldOf (n : Nat) (t : Token) : Option (BitVec n) :=
  (numberOf t).bind fun v => if v < 2 ^ n then some (BitVec.ofNat n v) else none

/-- A character operand: a quoted glyph or a number (30_encoding.md R74). -/
def charOf (t : Token) : Option Byte :=
  match t with
  | .glyph c => some c
  | .name cs => fieldOf 8 (.name cs)
  | .text _ => none
  | .comma => none

/-- The ASCII codes of a text (00_scope.md R14). -/
def ascii (s : String) : List Byte := s.toList.map fun c => BitVec.ofNat 8 c.toNat

/-- `<pos>, <char> [, dot]`: with `dot` the flag is 1, left out it is 0 (30_encoding.md R74). -/
def digitOperands (mk : BitVec 4 → Byte → Bool → Instr) (ts : List Token) : Option Instr :=
  match ts with
  | [p, c] => (fieldOf 4 p).bind fun pos => (charOf c).map fun char => mk pos char false
  | [p, c, d] =>
    if d = .name (ascii "dot") then
      (fieldOf 4 p).bind fun pos => (charOf c).map fun char => mk pos char true
    else none
  | _ => none

/-- A command without operands. -/
def noOperands (i : Instr) (ts : List Token) : Option Instr := if ts = [] then some i else none

/-- `<pos>, <frame24>`. -/
def frameOperands (ts : List Token) : Option Instr :=
  match ts with
  | [p, f] => (fieldOf 4 p).bind fun pos => (fieldOf 24 f).map fun frame => .writeFrame pos frame
  | _ => none

/-- `<pos>, <bank>`. -/
def bankOperands (ts : List Token) : Option Instr :=
  match ts with
  | [p, b] => (fieldOf 4 p).bind fun pos => (fieldOf 1 b).map fun bank => .readFrame pos bank
  | _ => none

/-- `<level>`. -/
def levelOperands (ts : List Token) : Option Instr :=
  match ts with
  | [l] => (fieldOf 4 l).map .setIntensity
  | _ => none

/-- The operands of PRINT_AT and their expansion (44_host_pseudo_ops.md R131). -/
def printAtOperands (ts : List Token) : Option (List Instr) :=
  match ts with
  | [s, .text t] => (numberOf s).bind fun start => printAt start t
  | _ => none

/-- The operand of PRINT and its expansion (44_host_pseudo_ops.md R135). -/
def printOperands (ts : List Token) : Option (List Instr) :=
  match ts with
  | [.text t] => print t
  | _ => none

/-- SETDIGIT takes no `dot` (30_encoding.md R79). -/
def plainDigitOperands (ts : List Token) : Option Instr :=
  match ts with
  | [p, c] => (fieldOf 4 p).bind fun pos => (charOf c).map fun char => setDigitPlain pos char
  | _ => none

/-- A mnemonic and its operands (30_encoding.md R74, R79). -/
def assembleOp (m : List Byte) (ts : List Token) : Option (List Instr) :=
  if m = ascii "SETUP" then (noOperands .setup ts).map ([·])
  else if m = ascii "SET_DIGIT" then (digitOperands .setDigit ts).map ([·])
  else if m = ascii "WRITE_FRAME" then (frameOperands ts).map ([·])
  else if m = ascii "SWAP" then (noOperands .swap ts).map ([·])
  else if m = ascii "DISPLAY" then (noOperands .display ts).map ([·])
  else if m = ascii "SET_INTENSITY" then
    (levelOperands ts).map ([·])
  else if m = ascii "ENCODE" then (digitOperands .encodeChar ts).map ([·])
  else if m = ascii "READ_FRAME" then (bankOperands ts).map ([·])
  else if m = ascii "READ_STATUS" then
    (noOperands .readStatus ts).map ([·])
  else if m = ascii "PRINT_AT" then printAtOperands ts
  else if m = ascii "PRINT" then printOperands ts
  else if m = ascii "SETDIGIT" then (plainDigitOperands ts).map ([·])
  else none

/-- The commands of one line; none for a line that is not of the syntax. -/
def assembleLine (line : List Byte) : Option (List Instr) :=
  match lex (.name []) line with
  | some (.name m :: rest) => (operands rest).bind (assembleOp m)
  | _ => none

end Sys2Proof.Machine
end

