-- ==== Sys2Proof/Machine/Observe.lean ====
section
/-! DEFINITION. What an observer reads off a state: the response of the step just taken, the driver IC's output, and
the tallies of transfers in the history (00_scope.md R18, 30_encoding.md R75). -/

namespace Sys2Proof.Machine

/-- The response (`RSP_ERR`, `RSP_DATA`) on the command port, present when the step just taken was a command: the
`Cmd` event that ends it carries it (30_encoding.md R75). Log entry 13. -/
def State.response (s : State) : Option (Bool × Word) :=
  match s.hist.getLast? with
  | some (.cmd _ err data) => some (err, data)
  | _ => none

/-- The driver-IC output: the frames of the `Complete` events, in order (00_scope.md R18). -/
def driverOutput (h : List Event) : List (Pos × Frame) :=
  h.filterMap fun e => match e with
    | .complete p f => some (p, f)
    | _ => none

/-- A `Submit` event. -/
def Event.isSubmit : Event → Bool
  | .submit _ _ _ => true
  | _ => false

/-- A `Cmd` event. -/
def Event.isCmd : Event → Bool
  | .cmd _ _ _ => true
  | _ => false

/-- The bus accepted a transfer for `p`. -/
def Event.accepts (p : Pos) : Event → Bool
  | .submit q _ .ok => decide (q = p)
  | _ => false

/-- The transfer for `p` finished. -/
def Event.finishes (p : Pos) : Event → Bool
  | .complete q _ => decide (q = p)
  | _ => false

/-- How many transfers for `p` the bus accepted (42_refresh_scheduler.md R103). -/
def acceptedCount (p : Pos) (h : List Event) : Nat := h.countP (Event.accepts p)

/-- How many transfers for `p` finished (42_refresh_scheduler.md R103). -/
def finishedCount (p : Pos) (h : List Event) : Nat := h.countP (Event.finishes p)

/-- Whether the bus holds a transfer for `p`, as the history tells it: the latest event that accepts or finishes one
accepts it (42_refresh_scheduler.md R103, R107, R110). -/
def heldByBus (p : Pos) (h : List Event) : Bool :=
  h.foldl (fun held e => if e.accepts p then true else if e.finishes p then false else held) false

/-- The frame of the latest accepted transfer for `p`. -/
def lastAccepted (p : Pos) (h : List Event) : Option Frame :=
  (h.filterMap fun e => match e with
    | .submit q f .ok => if q = p then some f else none
    | _ => none).getLast?

end Sys2Proof.Machine
end

