-- ==== Sys2Proof/Safety.lean ====
section
/-! DEFINITION. What claims about runs are made of: the invariants of 10_state.md R40, the named launch premises of
70_reset_and_hazards.md R175, the legal font tables, and runs with every choice of the environment. -/

namespace Sys2Proof.Machine

/-! ### Illegal words of one opcode (60_exceptions.md R138, R140) -/

/-- A word with opcode `op` that does not match its row sets ILL, stores cause 2, answers an error and changes nothing
else (30_encoding.md R69, 60_exceptions.md R140). -/
def ReservedFieldRule (op : BitVec 4) (mask pattern : Word) : Prop :=
  ∀ w s, w.extractLsb' 28 4 = op → w &&& mask ≠ pattern →
    commandStep w s = .next { s with ill := true, lastCause := 2, hist := s.hist ++ [.cmd w true 2] }

/-- A word that matches its row and carries a position of 9 to 15 does the same with cause 3 (30_encoding.md R70). -/
def PosRangeRule (op : BitVec 4) (mask pattern : Word) : Prop :=
  ∀ w s, w.extractLsb' 28 4 = op → w &&& mask = pattern → 9 ≤ (w.extractLsb' 24 4).toNat →
    commandStep w s = .next { s with ill := true, lastCause := 3, hist := s.hist ++ [.cmd w true 3] }

/-! ### Legal parameters -/

/-- A font table and dot bit that meet 40_frame_encoder.md R82 and R83. -/
structure FontLegal (table : Byte → Byte) (dotBit : Fin 8) : Prop where
  /-- R82. -/
  unmapped_blank : ∀ c, mapped c = false → table c = 0x00
  /-- R83. -/
  dot_unlit : ∀ c, (table c).getLsbD dotBit = false

/-! ### Invariants (10_state.md R40) -/

/-- What holds at every step boundary: I-a to I-e of R40, and one clause more. -/
structure State.Inv (s : State) : Prop where
  /-- I-a: if `RSTATE = IDLE` then `OUT[p] = 0` for every `p`. -/
  idle_none_out : s.rstate = .idle → ∀ p, s.out.get p = false
  /-- I-b: `OUT[p] = 1` if and only if `XFER[p]` has a value. -/
  out_iff_payload : ∀ p, s.out.get p = (s.xfer.get p).isSome
  /-- I-c: `PIN_LATCH` is `Z` or 0. -/
  latch_rests : s.pinLatch ≠ .high
  /-- I-d: if `BUS_READY = 0` then `OUT[p] = 0` for every `p`. -/
  unready_none_out : s.busReady = false → ∀ p, s.out.get p = false
  /-- I-e: `ILL = 0` if and only if `LAST_CAUSE = 0`. -/
  ill_iff_cause : s.ill = false ↔ s.lastCause = 0
  /-- Before SETUP the bus is not ready (10_state.md R29, R41: only SETUP writes BUS_READY). R40 does not list it; I-d
  needs it at SETUP. -/
  ready_after_setup : s.setupDone = false → s.busReady = false

/-- The history tells the state (10_state.md R31, R37, 43_control_status.md R128): it begins with `Reset`, and each of the
six flags of R31 stands for the events that set and clear it. -/
structure State.HistInv (s : State) : Prop where
  starts_reset : s.hist.head? = some .reset
  one_reset : s.hist.countP (fun e => decide (e = .reset)) = 1
  /-- ILL: a `Cmd` event with an error response. -/
  ill_iff : s.ill = true ↔ ∃ w d, Event.cmd w true d ∈ s.hist
  /-- SUBMIT_ERR: a failed submission. -/
  submitErr_iff : s.submitErr = true ↔ ∃ p f, Event.submit p f .fail ∈ s.hist
  /-- SETUP_DONE: a bus initialisation. -/
  setupDone_iff : s.setupDone = true ↔ ∃ st, Event.busInit st ∈ s.hist
  /-- BUS_READY: a bus initialisation that succeeded. -/
  busReady_iff : s.busReady = true ↔ Event.busInit .ok ∈ s.hist
  /-- RSTATE: a submission, whatever its outcome. -/
  refreshing_iff : s.rstate = .refreshing ↔ ∃ p f st, Event.submit p f st ∈ s.hist
  /-- OUT[p]: a transfer for `p` accepted and not finished since. -/
  out_eq : ∀ p, s.out.get p = heldByBus p s.hist

/-- Transfers are conserved (42_refresh_scheduler.md R103, R114): for every position the bus accepted exactly one more
transfer than finished when one is outstanding, else as many, and `XFER[p]` is the frame last accepted. -/
structure State.TransferInv (s : State) : Prop where
  balance : ∀ p, acceptedCount p s.hist = finishedCount p s.hist + (if s.out.get p then 1 else 0)
  payload : ∀ p f, s.xfer.get p = some f → lastAccepted p s.hist = some f

/-- A position without a transfer while refresh runs is a failure on record (42_refresh_scheduler.md R115, R116). -/
def State.StallInv (s : State) : Prop := ∀ p, s.stalled p = true → s.submitErr = true

/-! ### Launch premises (70_reset_and_hazards.md R175) -/

/-- `fresh`: the reset state of 10_state.md R41, whatever the agents will do next. -/
def State.fresh (s : State) : Prop := { s with inputs := [], draws := [], drawIndex := 0 } = State.reset

/-- `no_fault`: `ILL = 0` (60_exceptions.md R141). -/
def State.noFault (s : State) : Prop := s.ill = false

/-- `bus_ok`: `BusInit(OK)` is in `HIST`. -/
def State.busOk (s : State) : Prop := Event.busInit .ok ∈ s.hist

/-- `reliable`: every `Submit` draw in the history is OK. A submission draws only where `BUS_READY = 1`
(42_refresh_scheduler.md R107), that is after `BusInit(OK)`; one that fails before it drew nothing. -/
def State.reliable (s : State) : Prop :=
  ∀ before p f after, s.hist = before ++ .submit p f .fail :: after → Event.busInit .ok ∉ before

/-- The host's program has ended: no command is left at the port (70_reset_and_hazards.md R174). -/
def State.programEnded (s : State) : Prop := ∀ w, Input.command w ∉ s.inputs

/-! ### Runs under every choice of the environment -/

/-- The agent's step `e` can lead from `s` to `t` for some answers of the bus (00_scope.md R13: the model admits every
value of a draw). -/
def State.canStep (s : State) (e : Input) (t : State) : Prop :=
  ∃ answers, inputStep e { s with draws := answers } = .next t

/-- An infinite run: the `n`-th step is the agent's step `e n` (20_memory.md R50: one total order). -/
def IsRun (e : Nat → Input) (r : Nat → State) : Prop := ∀ n, (r n).canStep (e n) (r (n + 1))

/-- `fair`: a transfer that is outstanding from some step on is completed at or after it (42_refresh_scheduler.md R120,
70_reset_and_hazards.md R175). -/
def Fair (e : Nat → Input) (r : Nat → State) : Prop :=
  ∀ n p, (∀ m, n ≤ m → (r m).out.get p = true) → ∃ m, n ≤ m ∧ e m = .complete p

/-- A step that leaves `ACTIVE`, the transfer for `p` and reset alone: no reset, no swap, no completion of `p`. -/
def Input.leavesTransfer (p : Pos) : Input → Bool
  | .command w => decide (decode w ≠ .ok .swap) && decide (decode w ≠ .ok .display)
  | .complete q => decide (q ≠ p)
  | .reset => false

/-- A step of an agent other than a SET_INTENSITY command. -/
def Input.notIntensity : Input → Bool
  | .command w => match decode w with
    | .ok (.setIntensity _) => false
    | _ => true
  | .complete _ => true
  | .reset => true

/-! ### What intensity cannot touch (43_control_status.md R126) -/

/-- A state as someone sees it who sees neither `INTENSITY` nor the `Cmd` events. -/
def State.blind (s : State) : State :=
  { s with intensity := 0, hist := s.hist.filter fun e => !e.isCmd }

/-- An outcome as the same observer sees it. -/
def blindResult : Result → Result
  | .next s => .next s.blind
  | .fault r => .fault r
  | .refused r => .refused r

/-! ### Texts (44_host_pseudo_ops.md R131) -/

/-- The bytes that characters and their dot flags stand for in a text: a flagged character is followed by '.'. -/
def textOf (placed : List (Byte × Bool)) : List Byte :=
  placed.flatMap fun x => if x.2 then [x.1, dotChar] else [x.1]

/-- `placed` is what R131's loop reads from `text` when its counter starts at `start`: the characters from the left, a
following '.' always taken as a dot, up to the text's end or counter 8, where `rest` is left over. -/
structure ReadsAs (start : Nat) (text : List Byte) (placed : List (Byte × Bool)) (rest : List Byte) : Prop where
  bytes : text = textOf placed ++ rest
  dots_taken : ∀ k c, placed[k]? = some (c, false) → (textOf (placed.drop (k + 1)) ++ rest).head? ≠ some dotChar
  stops_last : rest = [] ∨ 8 ≤ start + placed.length
  stops_at_8 : placed = [] ∨ start + placed.length ≤ 8

/-! ### Writes into the pending bank (41_frame_store.md R97) -/

/-- The position and the frame a command writes into the pending bank, if it writes one. -/
def writtenBy (i : Instr) : Option (Pos × Frame) :=
  match i with
  | .setDigit pos char dot => (posOf pos).map fun p => (p, encodeFrame p char dot)
  | .writeFrame pos frame => (posOf pos).map fun p => (p, frame)
  | .setup => none
  | .swap => none
  | .display => none
  | .setIntensity _ => none
  | .encodeChar _ _ _ => none
  | .readFrame _ _ => none
  | .readStatus => none

/-- The frame a list of commands last writes at `p`, or `old` where it writes none. -/
def lastWritten (p : Pos) (old : Frame) : List Instr → Frame
  | [] => old
  | i :: rest =>
    match writtenBy i with
    | some (q, f) => lastWritten p (if q = p then f else old) rest
    | none => lastWritten p old rest

end Sys2Proof.Machine
end

