-- ==== Sys2Proof/Certificates/Slice0/Obligations.lean ====
section
/-! DEFINITION. The statements about VFDMUX for the provers. Each docstring names the rule of spec/ it formalises;
a clause that rests on the model's own choice names its log entry. -/

open Sys2Proof Sys2Proof.Machine

/-! ### Reset -/

/-- 10_state.md R41: the reset value of every state element. -/
def Obligations.ResetGivesTableValues : Prop :=
  (∀ b p, State.reset.memRead b p = 0x000000#24) ∧ State.reset.active = 0 ∧ State.reset.rstate = .idle ∧
  (∀ p, State.reset.out.get p = false) ∧ (∀ p, State.reset.xfer.get p = none) ∧
  State.reset.busReady = false ∧ State.reset.setupDone = false ∧ State.reset.intensity = 0 ∧
  State.reset.ill = false ∧ State.reset.lastCause = 0 ∧ State.reset.submitErr = false ∧
  State.reset.pinEn = .z ∧ State.reset.pinOe = .z ∧ State.reset.pinLatch = .z ∧ State.reset.hist = [.reset]

/-- 70_reset_and_hazards.md R157: reset in any state puts every element at its reset value, HIST included, and no
transfer of before completes after it. -/
def Obligations.ResetStepDiscardsEverything : Prop :=
  ∀ (s : State) rest, s.inputs = .reset :: rest →
    ∃ t : State, step s = .next t ∧ t.fresh ∧ t.hist = [.reset] ∧ (∀ p, t.out.get p = false) ∧
      ∀ p u, completionStep p t ≠ .next u

/-! ### Encoding and decoding -/

/-- 30_encoding.md R60 to R66: no bit of an encoding is dropped. -/
def Obligations.DecodeEncodeAgree : Prop :=
  ∀ i : Instr, i.wellFormed = true → decode (encode i) = .ok i

/-- 30_encoding.md R66, R71, R72: a word has one meaning, and only well-formed commands are read. -/
def Obligations.EncodeDecodeAgree : Prop :=
  ∀ w i, decode w = .ok i → i.wellFormed = true ∧ encode i = w

/-- 30_encoding.md R66: no word matches two rows of the opcode map. -/
def Obligations.OpcodeRowsDisjoint : Prop :=
  ∀ (w : Word) (o o' : Op), w &&& o.mask = o.pattern → w &&& o'.mask = o'.pattern → o = o'

/-- 30_encoding.md R67, R68, R69, R70, 60_exceptions.md R143: the checks and their order, with the masks of R66 written
out. The fourth check, a repeated SETUP, is stated in SetupRule. -/
def Obligations.DecodeChecksInOrder : Prop :=
  ∀ w : Word,
    ((w.extractLsb' 28 4).toNat = 0 ∨ 10 ≤ (w.extractLsb' 28 4).toNat → decode w = .error .reservedOpcode) ∧
    (∀ row ∈ ([(1, 0xFFFFFFFF, 0x10000000, false), (2, 0xF0FFFE00, 0x20000000, true),
        (3, 0xF0000000, 0x30000000, true), (4, 0xFFFFFFFF, 0x40000000, false), (5, 0xFFFFFFFF, 0x50000000, false),
        (6, 0xFFFFFFF0, 0x60000000, false), (7, 0xF0FFFE00, 0x70000000, true), (8, 0xF0FFFFFE, 0x80000000, true),
        (9, 0xFFFFFFFF, 0x90000000, false)] : List (Nat × Word × Word × Bool)),
      (w.extractLsb' 28 4).toNat = row.1 →
        (w &&& row.2.1 ≠ row.2.2.1 → decode w = .error .reservedField) ∧
        (w &&& row.2.1 = row.2.2.1 → row.2.2.2 = true → 9 ≤ (w.extractLsb' 24 4).toNat →
          decode w = .error .posRange) ∧
        (w &&& row.2.1 = row.2.2.1 → (row.2.2.2 = true → (w.extractLsb' 24 4).toNat < 9) →
          ∃ i, decode w = .ok i))

/-- 95_test_vectors.md V-D1, V-S1, V-E3, V-C2, V-S5, V-X1, V-X9, V-S11: words written out from 30_encoding.md R60. -/
def Obligations.DecodeWrittenWords : Prop :=
  decode 0b00010000000000000000000000000000 = .ok .setup ∧
  decode 0b00100111000000000000000000110001 = .ok (.setDigit 7 0x31 false) ∧
  decode 0b00110011001111110000000100000000 = .ok (.writeFrame 3 0x3F0100) ∧
  decode 0b01000000000000000000000000000000 = .ok .swap ∧
  decode 0b01010000000000000000000000000000 = .ok .display ∧
  decode 0b01100000000000000000000000001111 = .ok (.setIntensity 15) ∧
  decode 0b01110110000000000000000100110010 = .ok (.encodeChar 6 0x32 true) ∧
  decode 0b10000011000000000000000000000001 = .ok (.readFrame 3 1) ∧
  decode 0b10010000000000000000000000000000 = .ok .readStatus ∧
  decode 0x00000000 = .error .reservedOpcode ∧ decode 0x2F000231 = .error .reservedField ∧
  decode 0x3F000000 = .error .posRange

/-! ### The step and the command port -/

/-- 30_encoding.md R58, R67: a word at the head of the port that decodes to `i` is performed by `exec i`; the step takes
the word off the port and does nothing else around it. -/
def Obligations.StepRunsDecodedCommand : Prop :=
  ∀ (s : State) w rest i, s.inputs = .command w :: rest → decode w = .ok i → step s = exec i { s with inputs := rest }

/-- The word of a well-formed command, presented as a word of the opcode table, is performed by the next step
(30_encoding.md R58, R72; log entry 2). -/
def Obligations.PresentedWordRuns : Prop :=
  ∀ (s : State) i, i.wellFormed = true → step (s.withFetchWord 32 (encode i).toNat) = exec i s

/-- 60_exceptions.md R140: an illegal command, a second SETUP among them, changes ILL, LAST_CAUSE and HIST, answers the
cause, and nothing else happens; 60_exceptions.md R138 gives the codes. The step takes the word off the port. -/
def Obligations.IllegalCommandEffect : Prop :=
  (∀ (s : State) w rest c, s.inputs = .command w :: rest → decode w = .error c →
    step s = .next { s with
      inputs := rest
      ill := true
      lastCause := c.code
      hist := s.hist ++ [.cmd w true (c.code.setWidth 32)] }) ∧
  (∀ (s : State) rest, s.inputs = .command 0x10000000 :: rest → s.setupDone = true →
    step s = .next { s with
      inputs := rest
      ill := true
      lastCause := Cause.repeatedSetup.code
      hist := s.hist ++ [.cmd 0x10000000 true (Cause.repeatedSetup.code.setWidth 32)] }) ∧
  Cause.reservedOpcode.code = 1 ∧ Cause.reservedField.code = 2 ∧ Cause.posRange.code = 3 ∧
  Cause.repeatedSetup.code = 4

/-- 30_encoding.md R67, 60_exceptions.md R140: every command word, legal or not, in every state, is taken and leaves a
next state. -/
def Obligations.EveryCommandWordCompletes : Prop := ∀ w s, ∃ t : State, commandStep w s = .next t

/-- 30_encoding.md R75: a command's step answers once, for the word that was presented, with an error exactly when it
was illegal. That the `Cmd` event is the step's last is the model's reading: log entry 12. -/
def Obligations.EachCommandAnswersOnce : Prop :=
  ∀ (s : State) w rest t, s.inputs = .command w :: rest → step s = .next t →
    ∃ err data before, t.hist = s.hist ++ before ++ [.cmd w err data] ∧ (∀ e ∈ before, e.isCmd = false) ∧
      t.response = some (err, data) ∧
      (err = true ↔ (∃ c, decode w = .error c) ∨ (w = 0x10000000 ∧ s.setupDone = true)) ∧
      (err = true → t.ill = true ∧ data = t.lastCause.setWidth 32) ∧
      (err = false → t.ill = s.ill ∧ t.lastCause = s.lastCause)

/-! ### The frame encoder -/

/-- 40_frame_encoder.md R84: the three fields of an encoded frame, for every font table and dot bit. -/
def Obligations.EncodedFrameFields : Prop :=
  ∀ (table : Byte → Byte) (dotBit : Fin 8) (p : Pos) (c : Byte) (d : Bool),
    (encodeFrameWith table dotBit p c d).extractLsb' 16 8 =
        (if d then table c ||| (1#8 <<< dotBit.val) else table c) ∧
      (encodeFrameWith table dotBit p c d).extractLsb' 8 8 = (1#16 <<< p.val).extractLsb' 0 8 ∧
      (encodeFrameWith table dotBit p c d).extractLsb' 0 8 = 0

/-- 40_frame_encoder.md R88, R89: one select bit for positions 0 to 7, none for position 8, whatever the character. -/
def Obligations.SelectFieldOneHotOrZero : Prop :=
  ∀ (table : Byte → Byte) (dotBit : Fin 8) (p : Pos) (c : Byte) (d : Bool),
    (p.val < 8 → (encodeFrameWith table dotBit p c d).extractLsb' 8 8 = 1#8 <<< p.val) ∧
      (p.val = 8 → (encodeFrameWith table dotBit p c d).extractLsb' 8 8 = 0x00) ∧
      ∀ c' d', (encodeFrameWith table dotBit p c d).extractLsb' 8 8 =
        (encodeFrameWith table dotBit p c' d').extractLsb' 8 8

/-- 40_frame_encoder.md R90: the dot flag adds the dot bit and nothing else. -/
def Obligations.DotFlagAddsDotBit : Prop :=
  ∀ (table : Byte → Byte) (dotBit : Fin 8), FontLegal table dotBit → ∀ (p : Pos) (c : Byte),
    encodeFrameWith table dotBit p c true = encodeFrameWith table dotBit p c false ||| (1#24 <<< (16 + dotBit.val)) ∧
      (encodeFrameWith table dotBit p c false).getLsbD (16 + dotBit.val) = false

/-- 40_frame_encoder.md R91: an unmapped character has no segment lit, or only the dot. -/
def Obligations.UnmappedCharacterBlank : Prop :=
  ∀ (table : Byte → Byte) (dotBit : Fin 8), FontLegal table dotBit → ∀ (p : Pos) (c : Byte), mapped c = false →
    encodeFrameWith table dotBit p c false =
        ((encodeFrameWith table dotBit p c false).extractLsb' 8 8).setWidth 24 <<< 8 ∧
      (encodeFrameWith table dotBit p c true).extractLsb' 16 8 = 1#8 <<< dotBit.val

/-- 40_frame_encoder.md R82, R83: the block's own font meets both limits (space, '.' and every code from 0x80 up are
unmapped); and the form the model gives it loses no legal table (log entry 8). -/
def Obligations.FontMeetsItsLimits : Prop :=
  FontLegal font Config.dotBit ∧ mapped 0x20 = false ∧ mapped 0x2E = false ∧
    (∀ c : Byte, 0x80 ≤ c.toNat → mapped c = false) ∧
    ∀ (table : Byte → Byte) (dotBit : Fin 8), FontLegal table dotBit →
      ∀ c, (if mapped c then table c &&& ~~~(dotSegment dotBit) else 0x00) = table c

/-- 30_encoding.md R78: the decode half of the pair finds the position of an encoded frame, but for position 8. -/
def Obligations.EncodedFramePosition : Prop :=
  ∀ (p : Pos) (c : Byte) (d : Bool),
    (decodeFrame (encodeFrame p c d)).low = 0 ∧
      (p.val < 8 → selectedPosition (encodeFrame p c d) = some p) ∧
      (p.val = 8 → (decodeFrame (encodeFrame p c d)).sel = 0 ∧ selectedPosition (encodeFrame p c d) = none)

/-- 40_frame_encoder.md R85, ENCODE: encoding, effect (only the `Cmd` event), exceptions. -/
def Obligations.EncodeRule : Prop :=
  (∀ w : Word, w &&& 0xF0FFFE00 = 0x70000000 → (w.extractLsb' 24 4).toNat < 9 →
    decode w = .ok (.encodeChar (w.extractLsb' 24 4) (w.extractLsb' 0 8) (w.getLsbD 8))) ∧
  (∀ (s : State) pos char dot (h : pos.toNat < 9),
    exec (.encodeChar pos char dot) s = .next { s with
      hist := s.hist ++
        [.cmd (encode (.encodeChar pos char dot)) false ((encodeFrame ⟨pos.toNat, h⟩ char dot).setWidth 32)] }) ∧
  ReservedFieldRule 0x7 0xF0FFFE00 0x70000000 ∧ PosRangeRule 0x7 0xF0FFFE00 0x70000000

/-- 40_frame_encoder.md R86, SET_DIGIT: encoding, effect with its frame (one location of the pending bank and the `Cmd`
event; every other location and every other element as before), exceptions. -/
def Obligations.SetDigitRule : Prop :=
  (∀ w : Word, w &&& 0xF0FFFE00 = 0x20000000 → (w.extractLsb' 24 4).toNat < 9 →
    decode w = .ok (.setDigit (w.extractLsb' 24 4) (w.extractLsb' 0 8) (w.getLsbD 8))) ∧
  (∀ (s : State) pos char dot (h : pos.toNat < 9),
    ∃ t : State, exec (.setDigit pos char dot) s = .next t ∧
      t.memRead (1 - s.active) ⟨pos.toNat, h⟩ = encodeFrame ⟨pos.toNat, h⟩ char dot ∧
      (∀ b q, ¬(b = 1 - s.active ∧ q = ⟨pos.toNat, h⟩) → t.memRead b q = s.memRead b q) ∧
      t = { s with
        bank := t.bank
        hist := s.hist ++
          [.cmd (encode (.setDigit pos char dot)) false ((encodeFrame ⟨pos.toNat, h⟩ char dot).setWidth 32)] }) ∧
  ReservedFieldRule 0x2 0xF0FFFE00 0x20000000 ∧ PosRangeRule 0x2 0xF0FFFE00 0x20000000

/-! ### The double buffer store -/

/-- 41_frame_store.md R92, R93, WRITE_FRAME: encoding, effect with its frame (the value as given, in the pending bank),
the one exception. -/
def Obligations.WriteFrameRule : Prop :=
  (∀ w : Word, w &&& 0xF0000000 = 0x30000000 → (w.extractLsb' 24 4).toNat < 9 →
    decode w = .ok (.writeFrame (w.extractLsb' 24 4) (w.extractLsb' 0 24))) ∧
  (∀ (s : State) pos frame (h : pos.toNat < 9),
    ∃ t : State, exec (.writeFrame pos frame) s = .next t ∧
      t.memRead (1 - s.active) ⟨pos.toNat, h⟩ = frame ∧
      (∀ b q, ¬(b = 1 - s.active ∧ q = ⟨pos.toNat, h⟩) → t.memRead b q = s.memRead b q) ∧
      t = { s with
        bank := t.bank
        hist := s.hist ++ [.cmd (encode (.writeFrame pos frame)) false (frame.setWidth 32)] }) ∧
  PosRangeRule 0x3 0xF0000000 0x30000000

/-- 41_frame_store.md R94, SWAP: the one legal word, the effect (ACTIVE and the `Cmd` event), the exception. -/
def Obligations.SwapRule : Prop :=
  decode 0x40000000 = .ok .swap ∧
  (∀ s : State, exec .swap s = .next { s with
    active := 1 - s.active
    hist := s.hist ++ [.cmd 0x40000000 false ((1 - s.active).setWidth 32)] }) ∧
  ReservedFieldRule 0x4 0xFFFFFFFF 0x40000000

/-- 41_frame_store.md R96, READ_FRAME: encoding, effect (only the `Cmd` event), exceptions. -/
def Obligations.ReadFrameRule : Prop :=
  (∀ w : Word, w &&& 0xF0FFFFFE = 0x80000000 → (w.extractLsb' 24 4).toNat < 9 →
    decode w = .ok (.readFrame (w.extractLsb' 24 4) (w.extractLsb' 0 1))) ∧
  (∀ (s : State) pos bank (h : pos.toNat < 9),
    exec (.readFrame pos bank) s = .next { s with
      hist := s.hist ++
        [.cmd (encode (.readFrame pos bank)) false ((s.memRead bank ⟨pos.toNat, h⟩).setWidth 32)] }) ∧
  ReservedFieldRule 0x8 0xF0FFFFFE 0x80000000 ∧ PosRangeRule 0x8 0xF0FFFFFE 0x80000000

/-- The four commands with a position, given one of 9 to 15, take Illegal(POS_RANGE) and write no frame
(30_encoding.md R70). No word decodes to such a command: log entry 15. -/
def Obligations.PositionOutOfRangeTakesException : Prop :=
  ∀ (s : State) pos, 9 ≤ pos.toNat →
    (∀ char dot, exec (.setDigit pos char dot) s = .next { s with
      ill := true, lastCause := 3, hist := s.hist ++ [.cmd (encode (.setDigit pos char dot)) true 3] }) ∧
    (∀ frame, exec (.writeFrame pos frame) s = .next { s with
      ill := true, lastCause := 3, hist := s.hist ++ [.cmd (encode (.writeFrame pos frame)) true 3] }) ∧
    (∀ char dot, exec (.encodeChar pos char dot) s = .next { s with
      ill := true, lastCause := 3, hist := s.hist ++ [.cmd (encode (.encodeChar pos char dot)) true 3] }) ∧
    (∀ bank, exec (.readFrame pos bank) s = .next { s with
      ill := true, lastCause := 3, hist := s.hist ++ [.cmd (encode (.readFrame pos bank)) true 3] })

/-- 41_frame_store.md R98: two swaps leave the frames and ACTIVE as they were, and each reports the index it made
active. -/
def Obligations.TwoSwapsRestore : Prop :=
  ∀ s : State, performAll [.swap, .swap] s = .next { s with
    hist := s.hist ++ [.cmd 0x40000000 false ((1 - s.active).setWidth 32), .cmd 0x40000000 false (s.active.setWidth 32)] }

/-- 41_frame_store.md R95: in REFRESHING, SWAP and DISPLAY differ in the `Cmd` event only. -/
def Obligations.SwapAndDisplayAlikeWhileRefreshing : Prop :=
  ∀ s : State, s.rstate = .refreshing →
    ∃ t u, exec .swap s = .next t ∧ exec .display s = .next u ∧ u = { t with hist := u.hist } ∧
      t.hist = s.hist ++ [.cmd 0x40000000 false (t.active.setWidth 32)] ∧
      u.hist = s.hist ++ [.cmd 0x50000000 false (u.active.setWidth 32)]

/-- 41_frame_store.md R97: after any list of writes into the pending bank and then a SWAP or a DISPLAY, every position
of the new active bank reads as last written, and as before where it was not written. -/
def Obligations.WritesThenSwapReadBack : Prop :=
  ∀ s (writes : List Instr) (final : Instr), (∀ i ∈ writes, (writtenBy i).isSome = true) →
    final = .swap ∨ final = .display →
    ∃ t : State, performAll (writes ++ [final]) s = .next t ∧ t.active = 1 - s.active ∧
      ∀ p, t.memRead t.active p = lastWritten p (s.memRead (1 - s.active) p) writes ∧
        exec (.readFrame (posBits p) t.active) t = .next { t with
          hist := t.hist ++ [.cmd (encode (.readFrame (posBits p) t.active)) false
            ((lastWritten p (s.memRead (1 - s.active) p) writes).setWidth 32)] }

/-- 20_memory.md R57, R51: no step but reset changes the bank that was active before it, and every submission of a step
carries the frame of the bank active at its end. -/
def Obligations.BankOwnership : Prop :=
  ∀ s t : State, s.inputs.head? ≠ some .reset → step s = .next t →
    (∀ p, t.memRead s.active p = s.memRead s.active p) ∧
      ∃ ev, t.hist = s.hist ++ ev ∧ ∀ p f st, .submit p f st ∈ ev → f = t.memRead t.active p

/-! ### The refresh scheduler -/

/-- 42_refresh_scheduler.md R102, SETUP: the one legal word, the effect with its frame, both exceptions. That `Cmd` comes
after `BusInit` is the model's reading: log entry 12. -/
def Obligations.SetupRule : Prop :=
  decode 0x10000000 = .ok .setup ∧
  (∀ s : State, s.setupDone = false →
    ∃ t : State, exec .setup s = .next t ∧ t = { s with
      setupDone := true
      pinEn := .ofBool Config.setupEnLevel
      pinOe := .ofBool Config.setupOeLevel
      pinLatch := .low
      busReady := decide (s.drawAt 0 = .ok)
      hist := s.hist ++ [.busInit (s.drawAt 0), .cmd 0x10000000 false (if s.drawAt 0 = .ok then 1 else 0)]
      draws := t.draws
      drawIndex := t.drawIndex }) ∧
  (∀ s : State, s.setupDone = true →
    exec .setup s = .next { s with
      ill := true, lastCause := 4, hist := s.hist ++ [.cmd 0x10000000 true 4] }) ∧
  ReservedFieldRule 0x1 0xFFFFFFFF 0x10000000

/-- 42_refresh_scheduler.md R104: the bus initialisation may succeed or fail, in every state that SETUP is accepted in. -/
def Obligations.BusInitBothOutcomesAdmitted : Prop :=
  ∀ (s : State) (st : BusStatus), s.setupDone = false →
    ∃ t : State, s.canStep (.command 0x10000000) t ∧ Event.busInit st ∈ t.hist ∧ t.busReady = decide (st = .ok)

/-- 42_refresh_scheduler.md R107, R105: everything `Submit(p)` does, and that with the bus ready both outcomes are
admitted. -/
def Obligations.SubmitEffect : Prop :=
  ∀ (s : State) (p : Pos),
    (s.busReady = false → s.submitStatus = .fail) ∧
    (s.busReady = true → ∀ st, ∃ answers, ({ s with draws := answers } : State).submitStatus = st) ∧
    (s.submit p).hist = s.hist ++ [.submit p (s.memRead s.active p) s.submitStatus] ∧
    (s.submitStatus = .ok → (s.submit p).out.get p = true ∧
      (s.submit p).xfer.get p = some (s.memRead s.active p) ∧ (s.submit p).submitErr = s.submitErr) ∧
    (s.submitStatus = .fail → (s.submit p).out = s.out ∧ (s.submit p).xfer = s.xfer ∧
      (s.submit p).submitErr = true) ∧
    (∀ q, q ≠ p → (s.submit p).out.get q = s.out.get q ∧ (s.submit p).xfer.get q = s.xfer.get q) ∧
    (s.submit p) = { s with
      out := (s.submit p).out
      xfer := (s.submit p).xfer
      submitErr := (s.submit p).submitErr
      hist := (s.submit p).hist
      draws := (s.submit p).draws
      drawIndex := (s.submit p).drawIndex }

/-- 42_refresh_scheduler.md R108, R109, R118, DISPLAY: the one legal word; in REFRESHING only ACTIVE is inverted; from
IDLE the swap comes first, then nine submissions in position order, each with its own answer of the bus. That `Cmd` comes
last and how the answers are taken are the model's reading: log entries 12 and 18. -/
def Obligations.DisplayRule : Prop :=
  decode 0x50000000 = .ok .display ∧
  (∀ s : State, s.rstate = .refreshing → exec .display s = .next { s with
    active := 1 - s.active
    hist := s.hist ++ [.cmd 0x50000000 false ((1 - s.active).setWidth 32)] }) ∧
  (∀ s : State, s.rstate = .idle →
    ∃ t : State, exec .display s = .next t ∧
      (∀ p, t.out.get p = (decide (s.outcomeAt p.val = .ok) || s.out.get p)) ∧
      (∀ p, t.xfer.get p =
        if s.outcomeAt p.val = .ok then some (s.memRead (1 - s.active) p) else s.xfer.get p) ∧
      (t.submitErr = true ↔ s.submitErr = true ∨ ∃ p : Pos, s.outcomeAt p.val = .fail) ∧
      t = { s with
        active := 1 - s.active
        rstate := .refreshing
        out := t.out
        xfer := t.xfer
        submitErr := t.submitErr
        hist := s.hist ++
          (allPos.map fun p => .submit p (s.memRead (1 - s.active) p) (s.outcomeAt p.val)) ++
          [.cmd 0x50000000 false ((1 - s.active).setWidth 32)]
        draws := t.draws
        drawIndex := t.drawIndex }) ∧
  ReservedFieldRule 0x5 0xFFFFFFFF 0x50000000

/-- 42_refresh_scheduler.md R110, the completion step: events in order, the descriptor of `p`, the flag, the latch at
rest, and nothing else. -/
def Obligations.CompletionRule : Prop :=
  ∀ (s : State) (p : Pos) (f : Frame), s.out.get p = true → s.xfer.get p = some f →
    ∃ t : State, completionStep p s = .next t ∧
      (s.rstate = .refreshing →
        t.hist = s.hist ++
          [.complete p f, .latchHigh p, .submit p (s.memRead s.active p) s.submitStatus, .latchLow p] ∧
        t.out.get p = decide (s.submitStatus = .ok) ∧
        t.xfer.get p = (if s.submitStatus = .ok then some (s.memRead s.active p) else none) ∧
        t.submitErr = (s.submitErr || decide (s.submitStatus = .fail))) ∧
      (s.rstate = .idle →
        t.hist = s.hist ++ [.complete p f, .latchHigh p, .latchLow p] ∧ t.out.get p = false ∧
          t.xfer.get p = none ∧ t.submitErr = s.submitErr) ∧
      (∀ q, q ≠ p → t.out.get q = s.out.get q ∧ t.xfer.get q = s.xfer.get q) ∧
      t = { s with
        out := t.out
        xfer := t.xfer
        submitErr := t.submitErr
        pinLatch := .low
        hist := t.hist
        draws := t.draws
        drawIndex := t.drawIndex }

/-- 42_refresh_scheduler.md R103(c), 93_implementation_defined.md item 27: a completion for a position with no transfer
outstanding has no step. -/
def Obligations.SpuriousCompletionHasNoStep : Prop :=
  ∀ (s : State) (p : Pos), s.out.get p = false → ∀ t, completionStep p s ≠ .next t

/-- 42_refresh_scheduler.md R111: every outstanding transfer may complete next, and its re-submission may succeed or
fail. -/
def Obligations.AnyOutstandingMayComplete : Prop :=
  ∀ (s : State) (p : Pos), s.Inv → s.out.get p = true →
    ∀ st, ∃ t : State, s.canStep (.complete p) t ∧ .submit p (s.memRead s.active p) st ∈ t.hist.drop s.hist.length

/-- 42_refresh_scheduler.md R113: a completion submits once and for its own position; a DISPLAY from IDLE submits for
each position once; no other step submits. -/
def Obligations.SubmissionsPerStep : Prop :=
  (∀ (s : State) (p : Pos) (t : State), completionStep p s = .next t →
    ∃ ev, t.hist = s.hist ++ ev ∧ ev.countP Event.isSubmit ≤ 1 ∧ ∀ q f st, .submit q f st ∈ ev → q = p) ∧
  (∀ (s t : State) (w : Word), commandStep w s = .next t →
    ∃ ev, t.hist = s.hist ++ ev ∧
      (decode w = .ok .display ∧ s.rstate = .idle →
        ∀ p, ∃ f st, ev.filter (fun e => match e with | .submit q _ _ => decide (q = p) | _ => false) =
          [.submit p f st]) ∧
      (¬(decode w = .ok .display ∧ s.rstate = .idle) → ev.countP Event.isSubmit = 0))

/-- 42_refresh_scheduler.md R114: no step submits for a position whose transfer is outstanding, unless that very
transfer finished first in the step. -/
def Obligations.NeverSubmitsOverOutstanding : Prop :=
  ∀ s t : State, s.Inv → s.inputs.head? ≠ some .reset → step s = .next t →
    ∃ ev, t.hist = s.hist ++ ev ∧
      ∀ p f st, .submit p f st ∈ ev → s.out.get p = false ∨ ∃ g, ev.head? = some (.complete p g)

/-- 42_refresh_scheduler.md R116: a stalled position stays stalled until reset: no completion for it can come and no
step submits for it. -/
def Obligations.StalledUntilReset : Prop :=
  ∀ (s t : State) (p : Pos), s.inputs.head? ≠ some .reset → step s = .next t → s.stalled p = true →
    t.stalled p = true ∧ (∀ u, completionStep p s ≠ .next u) ∧
      ∃ ev, t.hist = s.hist ++ ev ∧ ∀ f st, .submit p f st ∉ ev

/-- 42_refresh_scheduler.md R121, 00_scope.md R8: after every step the transfers the bus holds, accepted and not finished,
are at most one a position and at most nine, which its queue takes; and none finished that was not accepted. -/
def Obligations.QueueNeverOverflows : Prop :=
  ∀ s t : State, s.Inv → s.TransferInv → step s = .next t →
    (∀ p, finishedCount p t.hist ≤ acceptedCount p t.hist ∧ acceptedCount p t.hist ≤ finishedCount p t.hist + 1) ∧
      (allPos.map fun p => acceptedCount p t.hist - finishedCount p t.hist).sum ≤ 9 ∧ 9 ≤ Config.queueDepth

/-- 42_refresh_scheduler.md R122: what a completion does to its position depends on the values R122 lists alone, and on
XFER[p] (which the `Complete` event carries) and SUBMIT_ERR (which stays when it is set). -/
def Obligations.CompletionReadsOnlyItsInputs : Prop :=
  ∀ (s s' : State) (p : Pos) (t t' : State), completionStep p s = .next t → completionStep p s' = .next t' →
    s.xfer.get p = s'.xfer.get p → s.active = s'.active → s.memRead s.active p = s'.memRead s'.active p →
    s.rstate = s'.rstate → s.busReady = s'.busReady → s.submitStatus = s'.submitStatus →
    s.submitErr = s'.submitErr →
    t.out.get p = t'.out.get p ∧ t.xfer.get p = t'.xfer.get p ∧ t.submitErr = t'.submitErr ∧
      ∃ ev, t.hist = s.hist ++ ev ∧ t'.hist = s'.hist ++ ev

/-- 42_refresh_scheduler.md R124: a first DISPLAY with the bus not ready leaves every position stalled, with the failure
on record, and no later step but reset enables a completion. -/
def Obligations.DegradedUntilReset : Prop :=
  ∀ s : State, s.Inv → s.rstate = .idle → s.busReady = false →
    ∃ t : State, exec .display s = .next t ∧ t.rstate = .refreshing ∧ t.submitErr = true ∧ (∀ p, t.out.get p = false) ∧
      (∀ p, .submit p (s.memRead (1 - s.active) p) .fail ∈ t.hist) ∧
      ∀ es u, .reset ∉ es → runInputs es t = .next u →
        ∀ p, u.stalled p = true ∧ ∀ v, completionStep p u ≠ .next v

/-- 20_memory.md R54, 10_state.md R33, 70_reset_and_hazards.md R165: no command touches a transfer in flight; only the
first DISPLAY makes new ones. -/
def Obligations.CommandsKeepTransfersInFlight : Prop :=
  ∀ (s t : State) (w : Word), commandStep w s = .next t → (s.rstate = .refreshing ∨ decode w ≠ .ok .display) →
    t.out = s.out ∧ t.xfer = s.xfer

/-- 42_refresh_scheduler.md R119: after a swap made bank `a` active, the first completion of `p` latches the old snapshot
and submits `BANK[a][p]`, and the second latches `BANK[a][p]` as it stood at the first. The clause about a FIFO bus is
not stated. -/
def Obligations.SwapLatencyTwoCompletions : Prop :=
  ∀ (s : State) (p : Pos) (f : Frame) (between : List Input) (t : State), s.rstate = .refreshing → s.out.get p = true → s.xfer.get p = some f →
    (∀ e ∈ between, e.leavesTransfer p = true) → runInputs between s = .next t →
    ∃ u, completionStep p t = .next u ∧
      u.hist = t.hist ++
        [.complete p f, .latchHigh p, .submit p (t.memRead s.active p) t.submitStatus, .latchLow p] ∧
      ∀ between' v, t.submitStatus = .ok → (∀ e ∈ between', e.leavesTransfer p = true) →
        runInputs between' u = .next v →
        ∃ x rest, completionStep p v = .next x ∧ x.hist = v.hist ++ .complete p (t.memRead s.active p) :: rest

/-- 42_refresh_scheduler.md R120: on a reliable bus, with the premises `fresh`, `bus_ok`, `reliable` and `fair` and no
reset, after the first DISPLAY every position completes infinitely often and keeps exactly one transfer outstanding. -/
def Obligations.ReliableRefreshNeverStalls : Prop :=
  ∀ (e : Nat → Input) (r : Nat → State), IsRun e r → Fair e r → (r 0).fresh → (∀ n, (r n).reliable) → (∀ n, e n ≠ .reset) →
    ∀ k, (r k).busOk → (r k).rstate = .idle → e k = .command 0x50000000 →
      ∀ p n, k < n →
        (r n).out.get p = true ∧ acceptedCount p (r n).hist = finishedCount p (r n).hist + 1 ∧
          ∃ m, n ≤ m ∧ e m = .complete p

/-! ### Control and status -/

/-- 43_control_status.md R125, SET_INTENSITY: encoding, effect with its frame, the exception. -/
def Obligations.SetIntensityRule : Prop :=
  (∀ w : Word, w &&& 0xFFFFFFF0 = 0x60000000 → decode w = .ok (.setIntensity (w.extractLsb' 0 4))) ∧
  (∀ (s : State) level, exec (.setIntensity level) s = .next { s with
    intensity := level
    hist := s.hist ++ [.cmd (encode (.setIntensity level)) false (level.setWidth 32)] }) ∧
  ReservedFieldRule 0x6 0xFFFFFFF0 0x60000000

/-- 43_control_status.md R126: two runs that differ only in their SET_INTENSITY commands look alike to whoever sees
neither INTENSITY nor the `Cmd` events. -/
def Obligations.IntensityChangesNoOutput : Prop :=
  ∀ es es' s, es.filter Input.notIntensity = es'.filter Input.notIntensity →
    blindResult (runInputs es s) = blindResult (runInputs es' s)

/-- 43_control_status.md R127, R130, READ_STATUS: the one legal word, the effect, the exception, and the status word bit
by bit. -/
def Obligations.ReadStatusRule : Prop :=
  decode 0x90000000 = .ok .readStatus ∧
  (∀ s : State, exec .readStatus s = .next { s with hist := s.hist ++ [.cmd 0x90000000 false s.status] }) ∧
  ReservedFieldRule 0x9 0xFFFFFFFF 0x90000000 ∧
  State.reset.status = 0x00000000 ∧
  (∀ s : State,
    s.status.extractLsb' 0 1 = s.active ∧ s.status.getLsbD 1 = decide (s.rstate = .refreshing) ∧
    s.status.getLsbD 2 = s.busReady ∧ s.status.getLsbD 3 = s.setupDone ∧ s.status.getLsbD 4 = s.ill ∧
    s.status.getLsbD 5 = s.submitErr ∧ s.status.getLsbD 6 = decide (s.pinLatch = .high) ∧
    s.status.getLsbD 7 = false ∧ s.status.extractLsb' 8 4 = s.intensity ∧
    s.status.extractLsb' 12 4 = s.lastCause ∧ (∀ p : Pos, s.status.getLsbD (16 + p.val) = s.out.get p) ∧
    s.status.getLsbD 25 = decide (s.pinEn = .high) ∧ s.status.getLsbD 26 = decide (s.pinOe = .high) ∧
    s.status.extractLsb' 27 5 = 0)

/-! ### Rules of the whole machine -/

/-- 10_state.md R41: the invariants hold at reset. -/
def Obligations.InvariantsHoldAtReset : Prop :=
  State.reset.Inv ∧ State.reset.HistInv ∧ State.reset.TransferInv ∧ State.reset.StallInv

/-- 10_state.md R40: I-a to I-e are kept by every step, from every state that meets them (and the clause that only SETUP
makes the bus ready, which R40 leaves unsaid). -/
def Obligations.InvariantKeptByEveryStep : Prop := ∀ s t : State, s.Inv → step s = .next t → t.Inv

/-- 10_state.md R31, R37, 43_control_status.md R128: each of the six flags of R31 (RSTATE, BUS_READY, SETUP_DONE, ILL,
SUBMIT_ERR, OUT[p]) stands for the events in HIST, and every step keeps it so. -/
def Obligations.HistoryTellsStatus : Prop := ∀ s t : State, s.HistInv → step s = .next t → t.HistInv

/-- 42_refresh_scheduler.md R103, R114, 10_state.md R33: transfers are conserved by every step, and XFER is what the bus
accepted last. -/
def Obligations.TransfersConserved : Prop :=
  ∀ s t : State, s.Inv → s.TransferInv → step s = .next t → t.TransferInv

/-- 42_refresh_scheduler.md R115, R116: a stalled position always has its failure on record. -/
def Obligations.StallAlwaysRecorded : Prop := ∀ s t : State, s.StallInv → step s = .next t → t.StallInv

/-- 60_exceptions.md R138: LAST_CAUSE never holds a code of 5 to 15. -/
def Obligations.LastCauseStaysLegal : Prop :=
  State.reset.lastCause.toNat ≤ 4 ∧ ∀ s t : State, s.lastCause.toNat ≤ 4 → step s = .next t → t.lastCause.toNat ≤ 4

/-- 70_reset_and_hazards.md R158, 42_refresh_scheduler.md R117, 43_control_status.md R129: no step but reset returns
RSTATE to IDLE or clears ILL, LAST_CAUSE, SUBMIT_ERR, SETUP_DONE or BUS_READY. -/
def Obligations.OnlyResetClears : Prop :=
  ∀ s t : State, s.Inv → s.inputs.head? ≠ some .reset → step s = .next t →
    (s.rstate = .refreshing → t.rstate = .refreshing) ∧ (s.ill = true → t.ill = true) ∧
      (s.lastCause ≠ 0 → t.lastCause ≠ 0) ∧ (s.submitErr = true → t.submitErr = true) ∧
      (s.setupDone = true → t.setupDone = true) ∧ (s.busReady = true → t.busReady = true)

/-- From every state that meets the invariant the machine never faults, and it has a next state unless the schedule
demands a completion that the bus may not make (60_exceptions.md R140, 70_reset_and_hazards.md R159, R174; log entries 5,
6). Where the schedule is empty the next state is the model's choice, with nothing outstanding its waiting step: log
entry 4. -/
def Obligations.MachineNeverStuck : Prop :=
  ∀ s : State, s.Inv → (∀ r, step s ≠ .fault r) ∧
    ((∀ p, s.inputs.head? = some (.complete p) → s.out.get p = true) → ∃ t : State, step s = .next t)

/-- Where the schedule names no step (the model's choice, log entry 4): with a transfer outstanding some outstanding
transfer completes, and with none the block waits (70_reset_and_hazards.md R159, R174). -/
def Obligations.QuietBusCompletesOrWaits : Prop :=
  ∀ s : State, s.Inv → s.inputs = [] →
    ((∀ p, s.out.get p = false) → step s = .next s) ∧
      ((∃ p, s.out.get p = true) →
        ∃ p f t rest, s.out.get p = true ∧ s.xfer.get p = some f ∧ step s = .next t ∧
          t.hist = s.hist ++ .complete p f :: rest)

/-! ### Host pseudo-operations and assembler -/

/-- 44_host_pseudo_ops.md R137, R132 and 95_test_vectors.md V-P1 to V-P9: expansions written out. -/
def Obligations.PrintExpansionsWrittenOut : Prop :=
  (print (ascii "12.3")).map (·.map encode) = some [0x27000031, 0x26000132, 0x25000033, 0x50000000] ∧
  (print (ascii ".")).map (·.map encode) = some [0x2700002E, 0x50000000] ∧
  (print (ascii "..")).map (·.map encode) = some [0x2700012E, 0x50000000] ∧
  (print (ascii "1..")).map (·.map encode) = some [0x27000131, 0x2600002E, 0x50000000] ∧
  (printAt 6 (ascii "123")).map (·.map encode) = some [0x21000031, 0x20000032, 0x50000000] ∧
  (printAt 7 (ascii "8.")).map (·.map encode) = some [0x20000138, 0x50000000] ∧
  (printAt 8 (ascii "1")).map (·.map encode) = some [0x50000000] ∧
  print (ascii "") = some [.display]

/-- 44_host_pseudo_ops.md R131, R132, R133: PRINT_AT reads its characters and dots from the text from the left, up to the
text's end or counter 8, places them at 7 - start, 7 - start - 1, ..., never at position 8, and ends in one DISPLAY. -/
def Obligations.PrintPlacesDownward : Prop :=
  ∀ start text, 0 ∉ text →
    ∃ placed rest, ReadsAs start text placed rest ∧ (8 ≤ start → placed = []) ∧
      printAt start text = some ((placed.mapIdx fun k x =>
        Instr.setDigit (BitVec.ofNat 4 (7 - (start + k))) x.1 x.2) ++ [.display])

/-- 44_host_pseudo_ops.md R134: performed in any state, PRINT_AT swaps and leaves every position it placed nothing at as
the pending bank held it. -/
def Obligations.PrintKeepsOtherPositions : Prop :=
  ∀ (s : State) start text, 0 ∉ text →
    ∃ is t, printAt start text = some is ∧ performAll is s = .next t ∧ t.active = 1 - s.active ∧
      ∀ p : Pos, (p.val > 7 - start ∨ p.val + start + (is.length - 1) < 8 ∨ 8 ≤ start) →
        t.memRead t.active p = s.memRead (1 - s.active) p

/-- 30_encoding.md R74, R79: a line of each mnemonic. Spacing and the like are the model's choice: log entry 20. -/
def Obligations.AssemblerLinesWrittenOut : Prop :=
  assembleLine (ascii "SETUP") = some [.setup] ∧
  assembleLine (ascii "SET_DIGIT 7, '1'") = some [.setDigit 7 0x31 false] ∧
  assembleLine (ascii "SET_DIGIT 6, 0x32, dot") = some [.setDigit 6 0x32 true] ∧
  assembleLine (ascii "WRITE_FRAME 3, 0x3F0100") = some [.writeFrame 3 0x3F0100] ∧
  assembleLine (ascii "SWAP") = some [.swap] ∧
  assembleLine (ascii "DISPLAY") = some [.display] ∧
  assembleLine (ascii "SET_INTENSITY 15") = some [.setIntensity 15] ∧
  assembleLine (ascii "ENCODE 6, '2', dot") = some [.encodeChar 6 0x32 true] ∧
  assembleLine (ascii "READ_FRAME 3, 1") = some [.readFrame 3 1] ∧
  assembleLine (ascii "READ_STATUS") = some [.readStatus] ∧
  assembleLine (ascii "PRINT_AT 6, \"123\"") = some [.setDigit 1 0x31 false, .setDigit 0 0x32 false, .display] ∧
  assembleLine (ascii "PRINT \"\"") = some [.display] ∧
  assembleLine (ascii "SETDIGIT 3, 'b'") = some [.setDigit 3 0x62 false]
end

