-- ==== Sys2Proof/Laws/Decode.lean ====
section
/-! SUPPORT. The fields of each format's word, read back (30_encoding.md R60 to R65), and the opcode map. -/

namespace Sys2Proof

/-- Each row's opcode leads back to it (30_encoding.md R66). -/
@[simp] theorem opOf_code (o : Op) : opOf o.code = some o := by cases o <;> rfl

theorem opOf_eq_some_iff (k : BitVec 4) (o : Op) : opOf k = some o ↔ k = o.code := by
  revert k; cases o <;> decide

theorem opOf_eq_none_iff (k : BitVec 4) : opOf k = none ↔ k.toNat = 0 ∨ 10 ≤ k.toNat := by
  revert k; decide

theorem posInRange_iff (pos : BitVec 4) : posInRange pos = true ↔ pos.toNat < 9 := by simp [posInRange]

/-! ### What a decoded word passed, check by check (30_encoding.md R67) -/

theorem decode_cases (w : Word) :
    (opOf (opField w) = none ∧ decode w = .error .reservedOpcode) ∨
    (∃ o, opOf (opField w) = some o ∧ w &&& o.mask ≠ o.pattern ∧ decode w = .error .reservedField) ∨
    (∃ o, opOf (opField w) = some o ∧ w &&& o.mask = o.pattern ∧
      (o.format.hasPos && !posInRange (posField w)) = true ∧ decode w = .error .posRange) ∨
    (∃ o, opOf (opField w) = some o ∧ w &&& o.mask = o.pattern ∧
      (o.format.hasPos && !posInRange (posField w)) = false ∧ decode w = .ok (o.read w)) := by
  unfold decode
  cases ho : opOf (opField w) with
  | none => simp
  | some o =>
    by_cases hm : w &&& o.mask = o.pattern
    · cases hp : (o.format.hasPos && !posInRange (posField w)) <;> simp_all
    · simp [hm]

/-- A word is read as the command of its row exactly when it passes the three checks. -/
theorem decode_eq_ok_iff (w : Word) (i : Instr) :
    decode w = .ok i ↔ ∃ o, opOf (opField w) = some o ∧ w &&& o.mask = o.pattern ∧
      (o.format.hasPos && !posInRange (posField w)) = false ∧ i = o.read w := by
  unfold decode
  cases ho : opOf (opField w) with
  | none => simp
  | some o =>
    by_cases hm : w &&& o.mask = o.pattern
    · cases hp : (o.format.hasPos && !posInRange (posField w)) <;> simp only [hm, hp, ne_eq, not_true_eq_false,
        if_false, if_true, reduceCtorEq, Except.ok.injEq, Option.some.injEq, exists_eq_left', true_and, Bool.false_eq_true,
        Bool.true_eq_false, false_and, @eq_comm _ i]
    · simp [hm]

/-! ### Fields of the formats -/

/-- Four bits decide a field of four bits. -/
theorem bits4 {a b : BitVec 4}
    (h : a.getLsbD 0 = b.getLsbD 0 ∧ a.getLsbD 1 = b.getLsbD 1 ∧ a.getLsbD 2 = b.getLsbD 2 ∧ a.getLsbD 3 = b.getLsbD 3) :
    a = b := by
  ext i hi
  obtain rfl | rfl | rfl | rfl : i = 0 ∨ i = 1 ∨ i = 2 ∨ i = 3 := by omega
  · exact h.1
  · exact h.2.1
  · exact h.2.2.1
  · exact h.2.2.2

section
variable (o : Op) (pos : BitVec 4) (dot : Bool) (char : Byte) (frame : Frame) (bank : BitVec 1) (level : BitVec 4)

/-- Rows of format C, F, R and I: bits 27 to 0 of their match words are 0 (30_encoding.md R66). -/
theorem Op.pattern_eq (o : Op) : o.pattern = zext32 o.code <<< 28 := by cases o <;> decide

@[simp] theorem opField_wordN : opField (wordN o) = o.code := by cases o <;> decide

@[simp] theorem opField_wordC : opField (wordC o pos dot char) = o.code := by
  rw [wordC, o.pattern_eq]; apply bits4; simp [opField, placePos, zext32]

@[simp] theorem posField_wordC : posField (wordC o pos dot char) = pos := by
  rw [wordC, o.pattern_eq]; apply bits4; simp [posField, placePos, zext32]

@[simp] theorem dotField_wordC : dotField (wordC o pos dot char) = dot := by
  rw [wordC, o.pattern_eq]; cases dot <;> simp [dotField, placePos, zext32]

@[simp] theorem charField_wordC : charField (wordC o pos dot char) = char := by
  rw [wordC, o.pattern_eq]; ext i hi
  simp [charField, placePos, zext32, show i < 28 by omega, show i < 24 by omega, show i < 32 by omega, hi]

@[simp] theorem opField_wordF : opField (wordF o pos frame) = o.code := by
  rw [wordF, o.pattern_eq]; apply bits4; simp [opField, placePos, zext32]

@[simp] theorem posField_wordF : posField (wordF o pos frame) = pos := by
  rw [wordF, o.pattern_eq]; apply bits4; simp [posField, placePos, zext32]

@[simp] theorem frameField_wordF : frameField (wordF o pos frame) = frame := by
  rw [wordF, o.pattern_eq]; ext i hi
  simp [frameField, placePos, zext32, show i < 28 by omega, show i < 32 by omega, hi]

@[simp] theorem opField_wordR : opField (wordR o pos bank) = o.code := by
  rw [wordR, o.pattern_eq]; apply bits4; simp [opField, placePos, zext32]

@[simp] theorem posField_wordR : posField (wordR o pos bank) = pos := by
  rw [wordR, o.pattern_eq]; apply bits4; simp [posField, placePos, zext32]

@[simp] theorem bankField_wordR : bankField (wordR o pos bank) = bank := by
  rw [wordR, o.pattern_eq]; ext i hi
  obtain rfl : i = 0 := by omega
  simp [bankField, placePos, zext32]

@[simp] theorem opField_wordI : opField (wordI o level) = o.code := by
  rw [wordI, o.pattern_eq]; apply bits4; simp [opField, zext32]

@[simp] theorem levelField_wordI : levelField (wordI o level) = level := by
  rw [wordI, o.pattern_eq]; apply bits4; simp [levelField, zext32]

end

/-! ### The words of the formats match their rows (30_encoding.md R66) -/

theorem or_and_right (a b c : Word) : (a ||| b) &&& c = (a &&& c) ||| (b &&& c) := by
  ext i hi; simp [Bool.and_or_distrib_right]

theorem placePos_and {m : Word} (h : m.extractLsb' 24 4 = 0) (pos : BitVec 4) : placePos pos &&& m = 0 := by
  have hm : ∀ i, i < 4 → m.getLsbD (24 + i) = false := fun i hi => by
    have := congrArg (fun v : BitVec 4 => v.getLsbD i) h
    simpa [hi] using this
  ext i hi
  simp only [placePos, zext32, BitVec.getElem_and, BitVec.getElem_shiftLeft]
  by_cases h24 : i < 24
  · simp [h24]
  · by_cases h28 : i < 28
    · have := hm (i - 24) (by omega)
      rw [show 24 + (i - 24) = i by omega, BitVec.getLsbD_eq_getElem hi] at this
      simp [this]
    · simp [h24, BitVec.getLsbD_of_ge pos (i - 24) (by omega)]

theorem Op.pattern_and_mask (o : Op) : o.pattern &&& o.mask = o.pattern := by cases o <;> decide

theorem wordC_matches {o : Op} (ho : o.format = .C) (pos : BitVec 4) (dot : Bool) (char : Byte) :
    wordC o pos dot char &&& o.mask = o.pattern := by
  have hm : o.mask = 0xF0FFFE00 := by cases o <;> first | rfl | cases ho
  have hp := placePos_and (m := o.mask) (by rw [hm]; decide) pos
  have hd : zext32 (BitVec.ofBool dot) <<< 8 &&& o.mask = 0 := by rw [hm]; revert dot; decide
  have hc : zext32 char &&& o.mask = 0 := by rw [hm]; revert char; decide
  simp [wordC, or_and_right, hp, hd, hc, o.pattern_and_mask]

theorem wordF_matches {o : Op} (ho : o.format = .F) (pos : BitVec 4) (frame : Frame) :
    wordF o pos frame &&& o.mask = o.pattern := by
  have hm : o.mask = 0xF0000000 := by cases o <;> first | rfl | cases ho
  have hp := placePos_and (m := o.mask) (by rw [hm]; decide) pos
  have hf : zext32 frame &&& o.mask = 0 := by
    have hbits : ∀ i : Fin 32, i.val < 24 → (0xF0000000 : Word).getLsbD i = false := by decide
    rw [hm]
    ext i hi
    by_cases h : i < 24
    · have hbit : (0xF0000000 : Word)[i] = false := hbits ⟨i, hi⟩ h
      rw [BitVec.getElem_and, hbit, Bool.and_false]
      simp
    · simp [zext32, BitVec.getLsbD_of_ge frame i (by omega)]
  simp [wordF, or_and_right, hp, hf, o.pattern_and_mask]

theorem wordR_matches {o : Op} (ho : o.format = .R) (pos : BitVec 4) (bank : BitVec 1) :
    wordR o pos bank &&& o.mask = o.pattern := by
  have hm : o.mask = 0xF0FFFFFE := by cases o <;> first | rfl | cases ho
  have hp := placePos_and (m := o.mask) (by rw [hm]; decide) pos
  have hb : zext32 bank &&& o.mask = 0 := by rw [hm]; revert bank; decide
  simp [wordR, or_and_right, hp, hb, o.pattern_and_mask]

theorem wordI_matches {o : Op} (ho : o.format = .I) (level : BitVec 4) :
    wordI o level &&& o.mask = o.pattern := by
  have hm : o.mask = 0xFFFFFFF0 := by cases o <;> first | rfl | cases ho
  have hl : zext32 level &&& o.mask = 0 := by rw [hm]; revert level; decide
  simp [wordI, or_and_right, hl, o.pattern_and_mask]

/-- The opcode field of every encoded word is its row's opcode (30_encoding.md R59, R66). -/
theorem opField_encode (i : Instr) : opField (encode i) = i.op.code := by
  cases i <;> simp [encode, Instr.op]

/-- Every encoded word matches its row (30_encoding.md R66). -/
theorem encode_matches (i : Instr) : encode i &&& i.op.mask = i.op.pattern := by
  cases i <;> simp only [encode, Instr.op, wordN, Op.pattern_and_mask, wordC_matches (o := .setDigit) rfl,
    wordF_matches (o := .writeFrame) rfl, wordI_matches (o := .setIntensity) rfl, wordC_matches (o := .encodeChar) rfl,
    wordR_matches (o := .readFrame) rfl]

end Sys2Proof
end

