-- ==== Sys2Proof/Laws/History.lean ====
section
/-! SUPPORT. What the tallies of the history and the bytes of a text do when something is appended, so that no later proof
unfolds a count or a fold. -/

namespace Sys2Proof.Machine

variable (p : Pos) (h : List Event)

theorem acceptedCount_append (es : List Event) :
    acceptedCount p (h ++ es) = acceptedCount p h + acceptedCount p es := List.countP_append

theorem finishedCount_append (es : List Event) :
    finishedCount p (h ++ es) = finishedCount p h + finishedCount p es := List.countP_append

theorem lastAccepted_append (es : List Event) :
    lastAccepted p (h ++ es) = (lastAccepted p es).or (lastAccepted p h) := by
  simp [lastAccepted, List.getLast?_append]

@[simp] theorem heldByBus_nil : heldByBus p [] = false := rfl

/-- One more event: it accepts a transfer, finishes one, or leaves the bus as it was. -/
@[simp] theorem heldByBus_concat (e : Event) :
    heldByBus p (h ++ [e]) = if e.accepts p then true else if e.finishes p then false else heldByBus p h := by
  simp [heldByBus, List.foldl_append]

/-- Events that neither accept nor finish a transfer for `p` leave what the bus holds. -/
theorem heldByBus_append_of_neither {es : List Event} (hes : ∀ e ∈ es, e.accepts p = false ∧ e.finishes p = false) :
    heldByBus p (h ++ es) = heldByBus p h := by
  induction es generalizing h with
  | nil => simp
  | cons e es ih =>
    rw [List.append_cons, ih (h ++ [e]) fun x hx => hes x (List.mem_cons_of_mem e hx)]
    simp [hes e]

@[simp] theorem textOf_nil : textOf [] = [] := rfl

@[simp] theorem textOf_cons (c : Byte) (d : Bool) (placed : List (Byte × Bool)) :
    textOf ((c, d) :: placed) = c :: ((if d then [dotChar] else []) ++ textOf placed) := by
  cases d <;> simp [textOf]

end Sys2Proof.Machine
end

