-- ==== Sys2Proof/Laws/State.lean ====
section
/-! SUPPORT. What each named update of the state does to each field, one lemma per field and update, so that no later
proof unfolds a record update. -/

namespace Sys2Proof.Machine

variable (s : State)

/-! ### memWrite -/

@[simp] theorem State.memWrite_bank (b : BitVec 1) (p : Pos) (v : Frame) :
    (s.memWrite b p v).bank = s.bank.set (bankIndex b) ((s.bank.get (bankIndex b)).set p v) := rfl
@[simp] theorem State.memWrite_active (b : BitVec 1) (p : Pos) (v : Frame) :
    (s.memWrite b p v).active = s.active := rfl
@[simp] theorem State.memWrite_rstate (b : BitVec 1) (p : Pos) (v : Frame) :
    (s.memWrite b p v).rstate = s.rstate := rfl
@[simp] theorem State.memWrite_out (b : BitVec 1) (p : Pos) (v : Frame) : (s.memWrite b p v).out = s.out := rfl
@[simp] theorem State.memWrite_xfer (b : BitVec 1) (p : Pos) (v : Frame) : (s.memWrite b p v).xfer = s.xfer := rfl
@[simp] theorem State.memWrite_busReady (b : BitVec 1) (p : Pos) (v : Frame) :
    (s.memWrite b p v).busReady = s.busReady := rfl
@[simp] theorem State.memWrite_setupDone (b : BitVec 1) (p : Pos) (v : Frame) :
    (s.memWrite b p v).setupDone = s.setupDone := rfl
@[simp] theorem State.memWrite_intensity (b : BitVec 1) (p : Pos) (v : Frame) :
    (s.memWrite b p v).intensity = s.intensity := rfl
@[simp] theorem State.memWrite_ill (b : BitVec 1) (p : Pos) (v : Frame) : (s.memWrite b p v).ill = s.ill := rfl
@[simp] theorem State.memWrite_lastCause (b : BitVec 1) (p : Pos) (v : Frame) :
    (s.memWrite b p v).lastCause = s.lastCause := rfl
@[simp] theorem State.memWrite_submitErr (b : BitVec 1) (p : Pos) (v : Frame) :
    (s.memWrite b p v).submitErr = s.submitErr := rfl
@[simp] theorem State.memWrite_pinEn (b : BitVec 1) (p : Pos) (v : Frame) : (s.memWrite b p v).pinEn = s.pinEn := rfl
@[simp] theorem State.memWrite_pinOe (b : BitVec 1) (p : Pos) (v : Frame) : (s.memWrite b p v).pinOe = s.pinOe := rfl
@[simp] theorem State.memWrite_pinLatch (b : BitVec 1) (p : Pos) (v : Frame) :
    (s.memWrite b p v).pinLatch = s.pinLatch := rfl
@[simp] theorem State.memWrite_hist (b : BitVec 1) (p : Pos) (v : Frame) : (s.memWrite b p v).hist = s.hist := rfl
@[simp] theorem State.memWrite_inputs (b : BitVec 1) (p : Pos) (v : Frame) :
    (s.memWrite b p v).inputs = s.inputs := rfl
@[simp] theorem State.memWrite_draws (b : BitVec 1) (p : Pos) (v : Frame) : (s.memWrite b p v).draws = s.draws := rfl
@[simp] theorem State.memWrite_drawIndex (b : BitVec 1) (p : Pos) (v : Frame) :
    (s.memWrite b p v).drawIndex = s.drawIndex := rfl

/-! ### flipActive -/

@[simp] theorem State.flipActive_bank : s.flipActive.bank = s.bank := rfl
@[simp] theorem State.flipActive_active : s.flipActive.active = 1 - s.active := rfl
@[simp] theorem State.flipActive_rstate : s.flipActive.rstate = s.rstate := rfl
@[simp] theorem State.flipActive_out : s.flipActive.out = s.out := rfl
@[simp] theorem State.flipActive_xfer : s.flipActive.xfer = s.xfer := rfl
@[simp] theorem State.flipActive_busReady : s.flipActive.busReady = s.busReady := rfl
@[simp] theorem State.flipActive_setupDone : s.flipActive.setupDone = s.setupDone := rfl
@[simp] theorem State.flipActive_intensity : s.flipActive.intensity = s.intensity := rfl
@[simp] theorem State.flipActive_ill : s.flipActive.ill = s.ill := rfl
@[simp] theorem State.flipActive_lastCause : s.flipActive.lastCause = s.lastCause := rfl
@[simp] theorem State.flipActive_submitErr : s.flipActive.submitErr = s.submitErr := rfl
@[simp] theorem State.flipActive_pinEn : s.flipActive.pinEn = s.pinEn := rfl
@[simp] theorem State.flipActive_pinOe : s.flipActive.pinOe = s.pinOe := rfl
@[simp] theorem State.flipActive_pinLatch : s.flipActive.pinLatch = s.pinLatch := rfl
@[simp] theorem State.flipActive_hist : s.flipActive.hist = s.hist := rfl
@[simp] theorem State.flipActive_inputs : s.flipActive.inputs = s.inputs := rfl
@[simp] theorem State.flipActive_draws : s.flipActive.draws = s.draws := rfl
@[simp] theorem State.flipActive_drawIndex : s.flipActive.drawIndex = s.drawIndex := rfl

/-! ### emit -/

@[simp] theorem State.emit_bank (e : Event) : (s.emit e).bank = s.bank := rfl
@[simp] theorem State.emit_active (e : Event) : (s.emit e).active = s.active := rfl
@[simp] theorem State.emit_rstate (e : Event) : (s.emit e).rstate = s.rstate := rfl
@[simp] theorem State.emit_out (e : Event) : (s.emit e).out = s.out := rfl
@[simp] theorem State.emit_xfer (e : Event) : (s.emit e).xfer = s.xfer := rfl
@[simp] theorem State.emit_busReady (e : Event) : (s.emit e).busReady = s.busReady := rfl
@[simp] theorem State.emit_setupDone (e : Event) : (s.emit e).setupDone = s.setupDone := rfl
@[simp] theorem State.emit_intensity (e : Event) : (s.emit e).intensity = s.intensity := rfl
@[simp] theorem State.emit_ill (e : Event) : (s.emit e).ill = s.ill := rfl
@[simp] theorem State.emit_lastCause (e : Event) : (s.emit e).lastCause = s.lastCause := rfl
@[simp] theorem State.emit_submitErr (e : Event) : (s.emit e).submitErr = s.submitErr := rfl
@[simp] theorem State.emit_pinEn (e : Event) : (s.emit e).pinEn = s.pinEn := rfl
@[simp] theorem State.emit_pinOe (e : Event) : (s.emit e).pinOe = s.pinOe := rfl
@[simp] theorem State.emit_pinLatch (e : Event) : (s.emit e).pinLatch = s.pinLatch := rfl
@[simp] theorem State.emit_hist (e : Event) : (s.emit e).hist = s.hist ++ [e] := rfl
@[simp] theorem State.emit_inputs (e : Event) : (s.emit e).inputs = s.inputs := rfl
@[simp] theorem State.emit_draws (e : Event) : (s.emit e).draws = s.draws := rfl
@[simp] theorem State.emit_drawIndex (e : Event) : (s.emit e).drawIndex = s.drawIndex := rfl

/-! ### respond -/

@[simp] theorem State.respond_bank (i : Instr) (d : Word) : (s.respond i d).bank = s.bank := rfl
@[simp] theorem State.respond_active (i : Instr) (d : Word) : (s.respond i d).active = s.active := rfl
@[simp] theorem State.respond_rstate (i : Instr) (d : Word) : (s.respond i d).rstate = s.rstate := rfl
@[simp] theorem State.respond_out (i : Instr) (d : Word) : (s.respond i d).out = s.out := rfl
@[simp] theorem State.respond_xfer (i : Instr) (d : Word) : (s.respond i d).xfer = s.xfer := rfl
@[simp] theorem State.respond_busReady (i : Instr) (d : Word) : (s.respond i d).busReady = s.busReady := rfl
@[simp] theorem State.respond_setupDone (i : Instr) (d : Word) : (s.respond i d).setupDone = s.setupDone := rfl
@[simp] theorem State.respond_intensity (i : Instr) (d : Word) : (s.respond i d).intensity = s.intensity := rfl
@[simp] theorem State.respond_ill (i : Instr) (d : Word) : (s.respond i d).ill = s.ill := rfl
@[simp] theorem State.respond_lastCause (i : Instr) (d : Word) : (s.respond i d).lastCause = s.lastCause := rfl
@[simp] theorem State.respond_submitErr (i : Instr) (d : Word) : (s.respond i d).submitErr = s.submitErr := rfl
@[simp] theorem State.respond_pinEn (i : Instr) (d : Word) : (s.respond i d).pinEn = s.pinEn := rfl
@[simp] theorem State.respond_pinOe (i : Instr) (d : Word) : (s.respond i d).pinOe = s.pinOe := rfl
@[simp] theorem State.respond_pinLatch (i : Instr) (d : Word) : (s.respond i d).pinLatch = s.pinLatch := rfl
@[simp] theorem State.respond_hist (i : Instr) (d : Word) :
    (s.respond i d).hist = s.hist ++ [.cmd (encode i) false d] := rfl
@[simp] theorem State.respond_inputs (i : Instr) (d : Word) : (s.respond i d).inputs = s.inputs := rfl
@[simp] theorem State.respond_draws (i : Instr) (d : Word) : (s.respond i d).draws = s.draws := rfl
@[simp] theorem State.respond_drawIndex (i : Instr) (d : Word) : (s.respond i d).drawIndex = s.drawIndex := rfl

/-! ### illegal -/

@[simp] theorem State.illegal_bank (w : Word) (c : Cause) : (s.illegal w c).bank = s.bank := rfl
@[simp] theorem State.illegal_active (w : Word) (c : Cause) : (s.illegal w c).active = s.active := rfl
@[simp] theorem State.illegal_rstate (w : Word) (c : Cause) : (s.illegal w c).rstate = s.rstate := rfl
@[simp] theorem State.illegal_out (w : Word) (c : Cause) : (s.illegal w c).out = s.out := rfl
@[simp] theorem State.illegal_xfer (w : Word) (c : Cause) : (s.illegal w c).xfer = s.xfer := rfl
@[simp] theorem State.illegal_busReady (w : Word) (c : Cause) : (s.illegal w c).busReady = s.busReady := rfl
@[simp] theorem State.illegal_setupDone (w : Word) (c : Cause) : (s.illegal w c).setupDone = s.setupDone := rfl
@[simp] theorem State.illegal_intensity (w : Word) (c : Cause) : (s.illegal w c).intensity = s.intensity := rfl
@[simp] theorem State.illegal_ill (w : Word) (c : Cause) : (s.illegal w c).ill = true := rfl
@[simp] theorem State.illegal_lastCause (w : Word) (c : Cause) : (s.illegal w c).lastCause = c.code := rfl
@[simp] theorem State.illegal_submitErr (w : Word) (c : Cause) : (s.illegal w c).submitErr = s.submitErr := rfl
@[simp] theorem State.illegal_pinEn (w : Word) (c : Cause) : (s.illegal w c).pinEn = s.pinEn := rfl
@[simp] theorem State.illegal_pinOe (w : Word) (c : Cause) : (s.illegal w c).pinOe = s.pinOe := rfl
@[simp] theorem State.illegal_pinLatch (w : Word) (c : Cause) : (s.illegal w c).pinLatch = s.pinLatch := rfl
@[simp] theorem State.illegal_hist (w : Word) (c : Cause) :
    (s.illegal w c).hist = s.hist ++ [.cmd w true (zext32 c.code)] := rfl
@[simp] theorem State.illegal_inputs (w : Word) (c : Cause) : (s.illegal w c).inputs = s.inputs := rfl
@[simp] theorem State.illegal_draws (w : Word) (c : Cause) : (s.illegal w c).draws = s.draws := rfl
@[simp] theorem State.illegal_drawIndex (w : Word) (c : Cause) : (s.illegal w c).drawIndex = s.drawIndex := rfl

/-! ### popDraw -/

@[simp] theorem State.popDraw_bank : s.popDraw.bank = s.bank := rfl
@[simp] theorem State.popDraw_active : s.popDraw.active = s.active := rfl
@[simp] theorem State.popDraw_rstate : s.popDraw.rstate = s.rstate := rfl
@[simp] theorem State.popDraw_out : s.popDraw.out = s.out := rfl
@[simp] theorem State.popDraw_xfer : s.popDraw.xfer = s.xfer := rfl
@[simp] theorem State.popDraw_busReady : s.popDraw.busReady = s.busReady := rfl
@[simp] theorem State.popDraw_setupDone : s.popDraw.setupDone = s.setupDone := rfl
@[simp] theorem State.popDraw_intensity : s.popDraw.intensity = s.intensity := rfl
@[simp] theorem State.popDraw_ill : s.popDraw.ill = s.ill := rfl
@[simp] theorem State.popDraw_lastCause : s.popDraw.lastCause = s.lastCause := rfl
@[simp] theorem State.popDraw_submitErr : s.popDraw.submitErr = s.submitErr := rfl
@[simp] theorem State.popDraw_pinEn : s.popDraw.pinEn = s.pinEn := rfl
@[simp] theorem State.popDraw_pinOe : s.popDraw.pinOe = s.pinOe := rfl
@[simp] theorem State.popDraw_pinLatch : s.popDraw.pinLatch = s.pinLatch := rfl
@[simp] theorem State.popDraw_hist : s.popDraw.hist = s.hist := rfl
@[simp] theorem State.popDraw_inputs : s.popDraw.inputs = s.inputs := rfl
@[simp] theorem State.popDraw_draws : s.popDraw.draws = s.draws.tail := rfl
@[simp] theorem State.popDraw_drawIndex : s.popDraw.drawIndex = s.drawIndex + 1 := rfl

/-! ### markOutstanding -/

@[simp] theorem State.markOutstanding_bank (p : Pos) (f : Frame) : (s.markOutstanding p f).bank = s.bank := rfl
@[simp] theorem State.markOutstanding_active (p : Pos) (f : Frame) : (s.markOutstanding p f).active = s.active := rfl
@[simp] theorem State.markOutstanding_rstate (p : Pos) (f : Frame) : (s.markOutstanding p f).rstate = s.rstate := rfl
@[simp] theorem State.markOutstanding_out (p : Pos) (f : Frame) :
    (s.markOutstanding p f).out = s.out.set p true := rfl
@[simp] theorem State.markOutstanding_xfer (p : Pos) (f : Frame) :
    (s.markOutstanding p f).xfer = s.xfer.set p (some f) := rfl
@[simp] theorem State.markOutstanding_busReady (p : Pos) (f : Frame) :
    (s.markOutstanding p f).busReady = s.busReady := rfl
@[simp] theorem State.markOutstanding_setupDone (p : Pos) (f : Frame) :
    (s.markOutstanding p f).setupDone = s.setupDone := rfl
@[simp] theorem State.markOutstanding_intensity (p : Pos) (f : Frame) :
    (s.markOutstanding p f).intensity = s.intensity := rfl
@[simp] theorem State.markOutstanding_ill (p : Pos) (f : Frame) : (s.markOutstanding p f).ill = s.ill := rfl
@[simp] theorem State.markOutstanding_lastCause (p : Pos) (f : Frame) :
    (s.markOutstanding p f).lastCause = s.lastCause := rfl
@[simp] theorem State.markOutstanding_submitErr (p : Pos) (f : Frame) :
    (s.markOutstanding p f).submitErr = s.submitErr := rfl
@[simp] theorem State.markOutstanding_pinEn (p : Pos) (f : Frame) : (s.markOutstanding p f).pinEn = s.pinEn := rfl
@[simp] theorem State.markOutstanding_pinOe (p : Pos) (f : Frame) : (s.markOutstanding p f).pinOe = s.pinOe := rfl
@[simp] theorem State.markOutstanding_pinLatch (p : Pos) (f : Frame) :
    (s.markOutstanding p f).pinLatch = s.pinLatch := rfl
@[simp] theorem State.markOutstanding_hist (p : Pos) (f : Frame) : (s.markOutstanding p f).hist = s.hist := rfl
@[simp] theorem State.markOutstanding_inputs (p : Pos) (f : Frame) : (s.markOutstanding p f).inputs = s.inputs := rfl
@[simp] theorem State.markOutstanding_draws (p : Pos) (f : Frame) : (s.markOutstanding p f).draws = s.draws := rfl
@[simp] theorem State.markOutstanding_drawIndex (p : Pos) (f : Frame) :
    (s.markOutstanding p f).drawIndex = s.drawIndex := rfl

/-! ### clearTransfer -/

@[simp] theorem State.clearTransfer_bank (p : Pos) : (s.clearTransfer p).bank = s.bank := rfl
@[simp] theorem State.clearTransfer_active (p : Pos) : (s.clearTransfer p).active = s.active := rfl
@[simp] theorem State.clearTransfer_rstate (p : Pos) : (s.clearTransfer p).rstate = s.rstate := rfl
@[simp] theorem State.clearTransfer_out (p : Pos) : (s.clearTransfer p).out = s.out.set p false := rfl
@[simp] theorem State.clearTransfer_xfer (p : Pos) : (s.clearTransfer p).xfer = s.xfer.set p none := rfl
@[simp] theorem State.clearTransfer_busReady (p : Pos) : (s.clearTransfer p).busReady = s.busReady := rfl
@[simp] theorem State.clearTransfer_setupDone (p : Pos) : (s.clearTransfer p).setupDone = s.setupDone := rfl
@[simp] theorem State.clearTransfer_intensity (p : Pos) : (s.clearTransfer p).intensity = s.intensity := rfl
@[simp] theorem State.clearTransfer_ill (p : Pos) : (s.clearTransfer p).ill = s.ill := rfl
@[simp] theorem State.clearTransfer_lastCause (p : Pos) : (s.clearTransfer p).lastCause = s.lastCause := rfl
@[simp] theorem State.clearTransfer_submitErr (p : Pos) : (s.clearTransfer p).submitErr = s.submitErr := rfl
@[simp] theorem State.clearTransfer_pinEn (p : Pos) : (s.clearTransfer p).pinEn = s.pinEn := rfl
@[simp] theorem State.clearTransfer_pinOe (p : Pos) : (s.clearTransfer p).pinOe = s.pinOe := rfl
@[simp] theorem State.clearTransfer_pinLatch (p : Pos) : (s.clearTransfer p).pinLatch = s.pinLatch := rfl
@[simp] theorem State.clearTransfer_hist (p : Pos) : (s.clearTransfer p).hist = s.hist := rfl
@[simp] theorem State.clearTransfer_inputs (p : Pos) : (s.clearTransfer p).inputs = s.inputs := rfl
@[simp] theorem State.clearTransfer_draws (p : Pos) : (s.clearTransfer p).draws = s.draws := rfl
@[simp] theorem State.clearTransfer_drawIndex (p : Pos) : (s.clearTransfer p).drawIndex = s.drawIndex := rfl

/-! ### flagSubmitErr -/

@[simp] theorem State.flagSubmitErr_bank : s.flagSubmitErr.bank = s.bank := rfl
@[simp] theorem State.flagSubmitErr_active : s.flagSubmitErr.active = s.active := rfl
@[simp] theorem State.flagSubmitErr_rstate : s.flagSubmitErr.rstate = s.rstate := rfl
@[simp] theorem State.flagSubmitErr_out : s.flagSubmitErr.out = s.out := rfl
@[simp] theorem State.flagSubmitErr_xfer : s.flagSubmitErr.xfer = s.xfer := rfl
@[simp] theorem State.flagSubmitErr_busReady : s.flagSubmitErr.busReady = s.busReady := rfl
@[simp] theorem State.flagSubmitErr_setupDone : s.flagSubmitErr.setupDone = s.setupDone := rfl
@[simp] theorem State.flagSubmitErr_intensity : s.flagSubmitErr.intensity = s.intensity := rfl
@[simp] theorem State.flagSubmitErr_ill : s.flagSubmitErr.ill = s.ill := rfl
@[simp] theorem State.flagSubmitErr_lastCause : s.flagSubmitErr.lastCause = s.lastCause := rfl
@[simp] theorem State.flagSubmitErr_submitErr : s.flagSubmitErr.submitErr = true := rfl
@[simp] theorem State.flagSubmitErr_pinEn : s.flagSubmitErr.pinEn = s.pinEn := rfl
@[simp] theorem State.flagSubmitErr_pinOe : s.flagSubmitErr.pinOe = s.pinOe := rfl
@[simp] theorem State.flagSubmitErr_pinLatch : s.flagSubmitErr.pinLatch = s.pinLatch := rfl
@[simp] theorem State.flagSubmitErr_hist : s.flagSubmitErr.hist = s.hist := rfl
@[simp] theorem State.flagSubmitErr_inputs : s.flagSubmitErr.inputs = s.inputs := rfl
@[simp] theorem State.flagSubmitErr_draws : s.flagSubmitErr.draws = s.draws := rfl
@[simp] theorem State.flagSubmitErr_drawIndex : s.flagSubmitErr.drawIndex = s.drawIndex := rfl

/-! ### setLatch -/

@[simp] theorem State.setLatch_bank (l : PinLevel) : (s.setLatch l).bank = s.bank := rfl
@[simp] theorem State.setLatch_active (l : PinLevel) : (s.setLatch l).active = s.active := rfl
@[simp] theorem State.setLatch_rstate (l : PinLevel) : (s.setLatch l).rstate = s.rstate := rfl
@[simp] theorem State.setLatch_out (l : PinLevel) : (s.setLatch l).out = s.out := rfl
@[simp] theorem State.setLatch_xfer (l : PinLevel) : (s.setLatch l).xfer = s.xfer := rfl
@[simp] theorem State.setLatch_busReady (l : PinLevel) : (s.setLatch l).busReady = s.busReady := rfl
@[simp] theorem State.setLatch_setupDone (l : PinLevel) : (s.setLatch l).setupDone = s.setupDone := rfl
@[simp] theorem State.setLatch_intensity (l : PinLevel) : (s.setLatch l).intensity = s.intensity := rfl
@[simp] theorem State.setLatch_ill (l : PinLevel) : (s.setLatch l).ill = s.ill := rfl
@[simp] theorem State.setLatch_lastCause (l : PinLevel) : (s.setLatch l).lastCause = s.lastCause := rfl
@[simp] theorem State.setLatch_submitErr (l : PinLevel) : (s.setLatch l).submitErr = s.submitErr := rfl
@[simp] theorem State.setLatch_pinEn (l : PinLevel) : (s.setLatch l).pinEn = s.pinEn := rfl
@[simp] theorem State.setLatch_pinOe (l : PinLevel) : (s.setLatch l).pinOe = s.pinOe := rfl
@[simp] theorem State.setLatch_pinLatch (l : PinLevel) : (s.setLatch l).pinLatch = l := rfl
@[simp] theorem State.setLatch_hist (l : PinLevel) : (s.setLatch l).hist = s.hist := rfl
@[simp] theorem State.setLatch_inputs (l : PinLevel) : (s.setLatch l).inputs = s.inputs := rfl
@[simp] theorem State.setLatch_draws (l : PinLevel) : (s.setLatch l).draws = s.draws := rfl
@[simp] theorem State.setLatch_drawIndex (l : PinLevel) : (s.setLatch l).drawIndex = s.drawIndex := rfl

/-! ### setLevel -/

@[simp] theorem State.setLevel_bank (l : BitVec 4) : (s.setLevel l).bank = s.bank := rfl
@[simp] theorem State.setLevel_active (l : BitVec 4) : (s.setLevel l).active = s.active := rfl
@[simp] theorem State.setLevel_rstate (l : BitVec 4) : (s.setLevel l).rstate = s.rstate := rfl
@[simp] theorem State.setLevel_out (l : BitVec 4) : (s.setLevel l).out = s.out := rfl
@[simp] theorem State.setLevel_xfer (l : BitVec 4) : (s.setLevel l).xfer = s.xfer := rfl
@[simp] theorem State.setLevel_busReady (l : BitVec 4) : (s.setLevel l).busReady = s.busReady := rfl
@[simp] theorem State.setLevel_setupDone (l : BitVec 4) : (s.setLevel l).setupDone = s.setupDone := rfl
@[simp] theorem State.setLevel_intensity (l : BitVec 4) : (s.setLevel l).intensity = l := rfl
@[simp] theorem State.setLevel_ill (l : BitVec 4) : (s.setLevel l).ill = s.ill := rfl
@[simp] theorem State.setLevel_lastCause (l : BitVec 4) : (s.setLevel l).lastCause = s.lastCause := rfl
@[simp] theorem State.setLevel_submitErr (l : BitVec 4) : (s.setLevel l).submitErr = s.submitErr := rfl
@[simp] theorem State.setLevel_pinEn (l : BitVec 4) : (s.setLevel l).pinEn = s.pinEn := rfl
@[simp] theorem State.setLevel_pinOe (l : BitVec 4) : (s.setLevel l).pinOe = s.pinOe := rfl
@[simp] theorem State.setLevel_pinLatch (l : BitVec 4) : (s.setLevel l).pinLatch = s.pinLatch := rfl
@[simp] theorem State.setLevel_hist (l : BitVec 4) : (s.setLevel l).hist = s.hist := rfl
@[simp] theorem State.setLevel_inputs (l : BitVec 4) : (s.setLevel l).inputs = s.inputs := rfl
@[simp] theorem State.setLevel_draws (l : BitVec 4) : (s.setLevel l).draws = s.draws := rfl
@[simp] theorem State.setLevel_drawIndex (l : BitVec 4) : (s.setLevel l).drawIndex = s.drawIndex := rfl

/-! ### setUp -/

@[simp] theorem State.setUp_bank (st : BusStatus) : (s.setUp st).bank = s.bank := rfl
@[simp] theorem State.setUp_active (st : BusStatus) : (s.setUp st).active = s.active := rfl
@[simp] theorem State.setUp_rstate (st : BusStatus) : (s.setUp st).rstate = s.rstate := rfl
@[simp] theorem State.setUp_out (st : BusStatus) : (s.setUp st).out = s.out := rfl
@[simp] theorem State.setUp_xfer (st : BusStatus) : (s.setUp st).xfer = s.xfer := rfl
@[simp] theorem State.setUp_busReady (st : BusStatus) : (s.setUp st).busReady = readyOf st := rfl
@[simp] theorem State.setUp_setupDone (st : BusStatus) : (s.setUp st).setupDone = true := rfl
@[simp] theorem State.setUp_intensity (st : BusStatus) : (s.setUp st).intensity = s.intensity := rfl
@[simp] theorem State.setUp_ill (st : BusStatus) : (s.setUp st).ill = s.ill := rfl
@[simp] theorem State.setUp_lastCause (st : BusStatus) : (s.setUp st).lastCause = s.lastCause := rfl
@[simp] theorem State.setUp_submitErr (st : BusStatus) : (s.setUp st).submitErr = s.submitErr := rfl
@[simp] theorem State.setUp_pinEn (st : BusStatus) : (s.setUp st).pinEn = .ofBool Config.setupEnLevel := rfl
@[simp] theorem State.setUp_pinOe (st : BusStatus) : (s.setUp st).pinOe = .ofBool Config.setupOeLevel := rfl
@[simp] theorem State.setUp_pinLatch (st : BusStatus) : (s.setUp st).pinLatch = .low := rfl
@[simp] theorem State.setUp_hist (st : BusStatus) : (s.setUp st).hist = s.hist ++ [.busInit st] := rfl
@[simp] theorem State.setUp_inputs (st : BusStatus) : (s.setUp st).inputs = s.inputs := rfl
@[simp] theorem State.setUp_draws (st : BusStatus) : (s.setUp st).draws = s.draws.tail := rfl
@[simp] theorem State.setUp_drawIndex (st : BusStatus) : (s.setUp st).drawIndex = s.drawIndex + 1 := rfl

/-! ### offer -/

@[simp] theorem State.offer_bank (w : Word) : (s.offer w).bank = s.bank := rfl
@[simp] theorem State.offer_active (w : Word) : (s.offer w).active = s.active := rfl
@[simp] theorem State.offer_rstate (w : Word) : (s.offer w).rstate = s.rstate := rfl
@[simp] theorem State.offer_out (w : Word) : (s.offer w).out = s.out := rfl
@[simp] theorem State.offer_xfer (w : Word) : (s.offer w).xfer = s.xfer := rfl
@[simp] theorem State.offer_busReady (w : Word) : (s.offer w).busReady = s.busReady := rfl
@[simp] theorem State.offer_setupDone (w : Word) : (s.offer w).setupDone = s.setupDone := rfl
@[simp] theorem State.offer_intensity (w : Word) : (s.offer w).intensity = s.intensity := rfl
@[simp] theorem State.offer_ill (w : Word) : (s.offer w).ill = s.ill := rfl
@[simp] theorem State.offer_lastCause (w : Word) : (s.offer w).lastCause = s.lastCause := rfl
@[simp] theorem State.offer_submitErr (w : Word) : (s.offer w).submitErr = s.submitErr := rfl
@[simp] theorem State.offer_pinEn (w : Word) : (s.offer w).pinEn = s.pinEn := rfl
@[simp] theorem State.offer_pinOe (w : Word) : (s.offer w).pinOe = s.pinOe := rfl
@[simp] theorem State.offer_pinLatch (w : Word) : (s.offer w).pinLatch = s.pinLatch := rfl
@[simp] theorem State.offer_hist (w : Word) : (s.offer w).hist = s.hist := rfl
@[simp] theorem State.offer_inputs (w : Word) : (s.offer w).inputs = .command w :: s.inputs := rfl
@[simp] theorem State.offer_draws (w : Word) : (s.offer w).draws = s.draws := rfl
@[simp] theorem State.offer_drawIndex (w : Word) : (s.offer w).drawIndex = s.drawIndex := rfl

/-! ### resetStep -/

@[simp] theorem resetStep_bank : (resetStep s).bank = State.reset.bank := rfl
@[simp] theorem resetStep_active : (resetStep s).active = State.reset.active := rfl
@[simp] theorem resetStep_rstate : (resetStep s).rstate = State.reset.rstate := rfl
@[simp] theorem resetStep_out : (resetStep s).out = State.reset.out := rfl
@[simp] theorem resetStep_xfer : (resetStep s).xfer = State.reset.xfer := rfl
@[simp] theorem resetStep_busReady : (resetStep s).busReady = State.reset.busReady := rfl
@[simp] theorem resetStep_setupDone : (resetStep s).setupDone = State.reset.setupDone := rfl
@[simp] theorem resetStep_intensity : (resetStep s).intensity = State.reset.intensity := rfl
@[simp] theorem resetStep_ill : (resetStep s).ill = State.reset.ill := rfl
@[simp] theorem resetStep_lastCause : (resetStep s).lastCause = State.reset.lastCause := rfl
@[simp] theorem resetStep_submitErr : (resetStep s).submitErr = State.reset.submitErr := rfl
@[simp] theorem resetStep_pinEn : (resetStep s).pinEn = State.reset.pinEn := rfl
@[simp] theorem resetStep_pinOe : (resetStep s).pinOe = State.reset.pinOe := rfl
@[simp] theorem resetStep_pinLatch : (resetStep s).pinLatch = State.reset.pinLatch := rfl
@[simp] theorem resetStep_hist : (resetStep s).hist = State.reset.hist := rfl
@[simp] theorem resetStep_inputs : (resetStep s).inputs = s.inputs := rfl
@[simp] theorem resetStep_draws : (resetStep s).draws = s.draws := rfl
@[simp] theorem resetStep_drawIndex : (resetStep s).drawIndex = s.drawIndex := rfl

end Sys2Proof.Machine
end

