-- ==== Sys2Proof/Laws/Ops.lean ====
section
/-! SUPPORT. What each shared operation does, said once: the frame store, positions, draws, submission and the
completion step. -/

namespace Sys2Proof.Machine

variable (s : State)

/-! ### Positions -/

@[simp] theorem mem_allPos (p : Pos) : p ∈ allPos := by revert p; decide

@[simp] theorem posOf_eq_some_iff (pos : BitVec 4) (p : Pos) : posOf pos = some p ↔ pos.toNat = p.val := by
  unfold posOf
  split
  · simp [Fin.ext_iff]
  · simp only [reduceCtorEq, false_iff]; omega

theorem posOf_of_lt {pos : BitVec 4} (h : pos.toNat < 9) : posOf pos = some ⟨pos.toNat, h⟩ := by simp [posOf, h]

theorem posOf_of_not_lt {pos : BitVec 4} (h : 9 ≤ pos.toNat) : posOf pos = none := by
  simp [posOf, Nat.not_lt.mpr h]

@[simp] theorem posBits_toNat (p : Pos) : (posBits p).toNat = p.val := by
  have := p.isLt
  simp only [posBits, BitVec.toNat_ofNat]; omega

@[simp] theorem posOf_posBits (p : Pos) : posOf (posBits p) = some p := by simp

theorem State.withPos_of_some {i : Instr} {pos : BitVec 4} {p : Pos} (h : posOf pos = some p) (f : Pos → State) :
    s.withPos i pos f = f p := by simp [State.withPos, h]

theorem State.withPos_of_none {i : Instr} {pos : BitVec 4} (h : posOf pos = none) (f : Pos → State) :
    s.withPos i pos f = s.illegal (encode i) .posRange := by simp [State.withPos, h]

/-! ### Vectors indexed by a position -/

theorem vector_get_set {α : Type} {n : Nat} (v : Vector α n) (i j : Fin n) (a : α) :
    (v.set i a).get j = if i = j then a else v.get j := by
  simp only [Vector.get_eq_getElem, Vector.getElem_set, Fin.ext_iff]

@[simp] theorem vector_get_set_self {α : Type} {n : Nat} (v : Vector α n) (i : Fin n) (a : α) :
    (v.set i a).get i = a := by simp [vector_get_set]

theorem vector_get_set_ne {α : Type} {n : Nat} (v : Vector α n) {i j : Fin n} (h : i ≠ j) (a : α) :
    (v.set i a).get j = v.get j := by simp [vector_get_set, h]

theorem vector_ext_get {α : Type} {n : Nat} {v w : Vector α n} (h : ∀ i, v.get i = w.get i) : v = w := by
  apply Vector.ext
  intro i hi
  exact h ⟨i, hi⟩

/-! ### The frame store -/

theorem bankIndex_inj {a b : BitVec 1} : bankIndex a = bankIndex b ↔ a = b :=
  ⟨fun h => BitVec.eq_of_toFin_eq h, fun h => h ▸ rfl⟩

/-- A read after a write: the value written at the place written, the old frame everywhere else. -/
theorem State.memRead_memWrite (b b' : BitVec 1) (p p' : Pos) (v : Frame) :
    (s.memWrite b p v).memRead b' p' = if b = b' ∧ p = p' then v else s.memRead b' p' := by
  simp only [State.memRead, State.memWrite_bank, vector_get_set, bankIndex_inj]
  by_cases hb : b = b' <;> by_cases hp : p = p' <;> simp [hb, hp, vector_get_set]

theorem State.memRead_congr {s t : State} (h : s.bank = t.bank) : s.memRead = t.memRead := by
  funext b p; simp [State.memRead, h]

/-- Two stores that read alike everywhere are equal. -/
theorem State.bank_ext {s t : State} (h : ∀ b p, s.memRead b p = t.memRead b p) : s.bank = t.bank := by
  apply vector_ext_get
  intro i
  apply vector_ext_get
  intro p
  simpa [State.memRead, bankIndex] using h (BitVec.ofFin i) p

theorem pending_ne_active : s.pending ≠ s.active := by
  have : ∀ a : BitVec 1, 1 - a ≠ a := by decide
  exact this _

theorem one_sub_one_sub : ∀ a : BitVec 1, 1 - (1 - a) = a := by decide

/-! ### Draws -/

theorem State.popDraw_drawAt (k : Nat) : s.popDraw.drawAt k = s.drawAt (k + 1) := by
  unfold State.drawAt
  cases h : s.draws <;> simp [h, Nat.add_assoc, Nat.add_comm 1 k]

/-- The one state that a submission leaves, by its outcome. -/
theorem State.submit_of_ok {p : Pos} (h : s.submitStatus = .ok) :
    s.submit p =
      (s.popSubmitDraw.emit (.submit p (s.memRead s.active p) .ok)).markOutstanding p (s.memRead s.active p) := by
  simp [State.submit, h]

theorem State.submit_of_fail {p : Pos} (h : s.submitStatus = .fail) :
    s.submit p = (s.popSubmitDraw.emit (.submit p (s.memRead s.active p) .fail)).flagSubmitErr := by
  simp [State.submit, h]

theorem State.submitStatus_of_ready (h : s.busReady = true) : s.submitStatus = s.drawAt 0 := by
  simp [State.submitStatus, State.outcomeAt, h]

theorem State.submitStatus_of_not_ready (h : s.busReady = false) : s.submitStatus = .fail := by
  simp [State.submitStatus, State.outcomeAt, h]

/-- A submission says everything it does: one `Submit` event; on OK the transfer becomes outstanding with the frame of
the active bank, on FAIL the flag is set; nothing else of the block changes. -/
theorem State.submit_cases (p : Pos) :
    (s.submit p).hist = s.hist ++ [.submit p (s.memRead s.active p) s.submitStatus] ∧
    ((s.submitStatus = .ok ∧ s.busReady = true ∧ (s.submit p).out = s.out.set p true ∧
        (s.submit p).xfer = s.xfer.set p (some (s.memRead s.active p)) ∧ (s.submit p).submitErr = s.submitErr) ∨
      (s.submitStatus = .fail ∧ (s.submit p).out = s.out ∧ (s.submit p).xfer = s.xfer ∧
        (s.submit p).submitErr = true)) := by
  cases hst : s.submitStatus <;> cases hr : s.busReady <;>
    simp_all [State.submit, State.popSubmitDraw, State.submitStatus, State.outcomeAt]

section
variable (p : Pos)

@[simp] theorem State.submit_bank : (s.submit p).bank = s.bank := by
  unfold State.submit State.popSubmitDraw; split <;> split <;> rfl
@[simp] theorem State.submit_active : (s.submit p).active = s.active := by
  unfold State.submit State.popSubmitDraw; split <;> split <;> rfl
@[simp] theorem State.submit_rstate : (s.submit p).rstate = s.rstate := by
  unfold State.submit State.popSubmitDraw; split <;> split <;> rfl
@[simp] theorem State.submit_busReady : (s.submit p).busReady = s.busReady := by
  unfold State.submit State.popSubmitDraw; split <;> split <;> rfl
@[simp] theorem State.submit_setupDone : (s.submit p).setupDone = s.setupDone := by
  unfold State.submit State.popSubmitDraw; split <;> split <;> rfl
@[simp] theorem State.submit_intensity : (s.submit p).intensity = s.intensity := by
  unfold State.submit State.popSubmitDraw; split <;> split <;> rfl
@[simp] theorem State.submit_ill : (s.submit p).ill = s.ill := by
  unfold State.submit State.popSubmitDraw; split <;> split <;> rfl
@[simp] theorem State.submit_lastCause : (s.submit p).lastCause = s.lastCause := by
  unfold State.submit State.popSubmitDraw; split <;> split <;> rfl
@[simp] theorem State.submit_pinEn : (s.submit p).pinEn = s.pinEn := by
  unfold State.submit State.popSubmitDraw; split <;> split <;> rfl
@[simp] theorem State.submit_pinOe : (s.submit p).pinOe = s.pinOe := by
  unfold State.submit State.popSubmitDraw; split <;> split <;> rfl
@[simp] theorem State.submit_pinLatch : (s.submit p).pinLatch = s.pinLatch := by
  unfold State.submit State.popSubmitDraw; split <;> split <;> rfl
@[simp] theorem State.submit_inputs : (s.submit p).inputs = s.inputs := by
  unfold State.submit State.popSubmitDraw; split <;> split <;> rfl

@[simp] theorem State.submit_memRead (b : BitVec 1) (q : Pos) : (s.submit p).memRead b q = s.memRead b q := by
  rw [State.memRead_congr (s.submit_bank p)]

theorem State.submit_hist :
    (s.submit p).hist = s.hist ++ [.submit p (s.memRead s.active p) s.submitStatus] := (s.submit_cases p).1

theorem State.submit_out (q : Pos) :
    (s.submit p).out.get q = if p = q ∧ s.submitStatus = .ok then true else s.out.get q := by
  rcases (s.submit_cases p).2 with ⟨h, -, ho, -, -⟩ | ⟨h, ho, -, -⟩ <;> rw [ho] <;> simp [h, vector_get_set]

theorem State.submit_xfer (q : Pos) :
    (s.submit p).xfer.get q =
      if p = q ∧ s.submitStatus = .ok then some (s.memRead s.active p) else s.xfer.get q := by
  rcases (s.submit_cases p).2 with ⟨h, -, -, hx, -⟩ | ⟨h, -, hx, -⟩ <;> rw [hx] <;> simp [h, vector_get_set]

theorem State.submit_submitErr :
    (s.submit p).submitErr = (s.submitErr || decide (s.submitStatus = .fail)) := by
  rcases (s.submit_cases p).2 with ⟨h, -, -, -, hx⟩ | ⟨h, -, -, hx⟩ <;> rw [hx] <;> simp [h]

/-- The answers that remain after a submission: one fewer when the bus is ready. -/
theorem State.submit_drawAt (k : Nat) :
    (s.submit p).drawAt k = if s.busReady then s.drawAt (k + 1) else s.drawAt k := by
  unfold State.submit State.popSubmitDraw
  split <;> split <;> first | exact s.popDraw_drawAt k | rfl

end

/-! ### Taking an illegal command -/

/-- No cause has the code of "no illegal command" (60_exceptions.md R138). -/
@[simp] theorem causeCode_ne_zero (c : Cause) : c.code ≠ 0 := by cases c <;> decide

theorem causeCode_le_four (c : Cause) : c.code.toNat ≤ 4 := by cases c <;> decide

/-! ### Several submissions -/

/-- The submissions of a list of positions change only what one submission changes. -/
theorem State.foldl_submit_same (ps : List Pos) :
    let t := ps.foldl State.submit s
    t.bank = s.bank ∧ t.active = s.active ∧ t.rstate = s.rstate ∧ t.busReady = s.busReady ∧
      t.setupDone = s.setupDone ∧ t.intensity = s.intensity ∧ t.ill = s.ill ∧ t.lastCause = s.lastCause ∧
      t.pinEn = s.pinEn ∧ t.pinOe = s.pinOe ∧ t.pinLatch = s.pinLatch ∧ t.inputs = s.inputs := by
  induction ps generalizing s with
  | nil => simp
  | cons p ps ih => simpa using ih (s.submit p)

theorem State.outcomeAt_zero : s.outcomeAt 0 = s.submitStatus := rfl

theorem State.submit_outcomeAt (p : Pos) (k : Nat) : (s.submit p).outcomeAt k = s.outcomeAt (k + 1) := by
  unfold State.outcomeAt
  rw [State.submit_busReady, State.submit_drawAt]
  by_cases h : s.busReady = true <;> simp [h]

/-! ### The completion step -/

theorem completionStep_cases {p : Pos} {r : Result} (h : completionStep p s = r) :
    (s.out.get p = false ∧ r = .refused .noSuchTransfer) ∨
    (s.out.get p = true ∧ s.xfer.get p = none ∧ r = .fault .payloadMissing) ∨
    (∃ f, s.out.get p = true ∧ s.xfer.get p = some f ∧ r = .next (s.completed p f)) := by
  unfold completionStep at h
  cases ho : s.out.get p <;> cases hx : s.xfer.get p <;> simp_all

theorem completionStep_of_outstanding {p : Pos} {f : Frame} (ho : s.out.get p = true) (hx : s.xfer.get p = some f) :
    completionStep p s = .next (s.completed p f) := by simp [completionStep, ho, hx]

end Sys2Proof.Machine
end

