-- ==== Sys2Proof/Laws/PerInstr.lean ====
section
/-! SUPPORT. Facts made per instruction: the encoded word carries its row's opcode and matches its row
(30_encoding.md R59, R66). -/

namespace Sys2Proof.Laws.OpcodeField

/-- The word of `i` has the opcode of `i`'s row and matches the row's mask and match columns. -/
def Statement (i : Instr) : Prop :=
  opField (encode i) = i.op.code ∧ encode i &&& i.op.mask = i.op.pattern

theorem setup : Statement .setup := ⟨opField_encode _, encode_matches _⟩
theorem setDigit (pos : BitVec 4) (char : Byte) (dot : Bool) : Statement (.setDigit pos char dot) :=
  ⟨opField_encode _, encode_matches _⟩
theorem writeFrame (pos : BitVec 4) (frame : Frame) : Statement (.writeFrame pos frame) :=
  ⟨opField_encode _, encode_matches _⟩
theorem swap : Statement .swap := ⟨opField_encode _, encode_matches _⟩
theorem display : Statement .display := ⟨opField_encode _, encode_matches _⟩
theorem setIntensity (level : BitVec 4) : Statement (.setIntensity level) := ⟨opField_encode _, encode_matches _⟩
theorem encodeChar (pos : BitVec 4) (char : Byte) (dot : Bool) : Statement (.encodeChar pos char dot) :=
  ⟨opField_encode _, encode_matches _⟩
theorem readFrame (pos : BitVec 4) (bank : BitVec 1) : Statement (.readFrame pos bank) :=
  ⟨opField_encode _, encode_matches _⟩
theorem readStatus : Statement .readStatus := ⟨opField_encode _, encode_matches _⟩

end Sys2Proof.Laws.OpcodeField
end

