-- ==== Sys2Proof/Laws/Step.lean ====
section
/-! SUPPORT. What a whole step can do, said once: the nine submissions, the completion step, a command, and the step
function's cases. Later proofs cite these and do not unfold the step. -/

namespace Sys2Proof.Machine

variable (s : State)

/-! ### The nine submissions of the first DISPLAY -/

/-- The events of a row of submissions: one a position, in order, each with its own outcome. -/
theorem State.foldl_submit_hist (ps : List Pos) :
    (ps.foldl State.submit s).hist =
      s.hist ++ ps.mapIdx fun k p => .submit p (s.memRead s.active p) (s.outcomeAt k) := by
  induction ps generalizing s with
  | nil => simp
  | cons p ps ih =>
    simp [ih, State.submit_hist, State.submit_outcomeAt, State.outcomeAt_zero]

/-- A position that is not in the row keeps its transfer. -/
theorem State.foldl_submit_not_mem {ps : List Pos} {q : Pos} (h : q ∉ ps) :
    (ps.foldl State.submit s).out.get q = s.out.get q ∧ (ps.foldl State.submit s).xfer.get q = s.xfer.get q := by
  induction ps generalizing s with
  | nil => simp
  | cons p ps ih =>
    have hp : p ≠ q := fun e => h (by simp [e])
    simpa [State.submit_out, State.submit_xfer, hp] using ih (s.submit p) (fun e => h (by simp [e]))

/-- A position at place `k` of a row without repeats: its transfer is outstanding exactly when it was or the bus accepted
it, and then it carries the active bank's frame. -/
theorem State.foldl_submit_getElem {ps : List Pos} (hn : ps.Nodup) {k : Nat} {q : Pos} (hk : ps[k]? = some q) :
    (ps.foldl State.submit s).out.get q = (decide (s.outcomeAt k = .ok) || s.out.get q) ∧
      (ps.foldl State.submit s).xfer.get q =
        if s.outcomeAt k = .ok then some (s.memRead s.active q) else s.xfer.get q := by
  induction ps generalizing s k with
  | nil => simp at hk
  | cons p ps ih =>
    have hp : p ∉ ps ∧ ps.Nodup := List.nodup_cons.mp hn
    cases k with
    | zero =>
      obtain rfl : p = q := by simpa using hk
      obtain ⟨ho, hx⟩ := (s.submit p).foldl_submit_not_mem hp.1
      rw [List.foldl_cons, ho, hx, State.submit_out, State.submit_xfer, State.outcomeAt_zero]
      cases s.submitStatus <;> simp
    | succ k =>
      have hk' : ps[k]? = some q := by simpa using hk
      have hpq : p ≠ q := fun e => hp.1 (e ▸ List.mem_of_getElem? hk')
      rw [List.foldl_cons, (ih (s.submit p) hp.2 hk').1, (ih (s.submit p) hp.2 hk').2]
      simp [State.submit_outcomeAt, State.submit_out, State.submit_xfer, hpq]

/-- The error flag after a row: set before, or some submission of the row failed. -/
theorem State.foldl_submit_submitErr (ps : List Pos) :
    (ps.foldl State.submit s).submitErr = true ↔
      s.submitErr = true ∨ ∃ k, k < ps.length ∧ s.outcomeAt k = .fail := by
  induction ps generalizing s with
  | nil => simp
  | cons p ps ih =>
    rw [List.foldl_cons, ih, State.submit_submitErr]
    simp only [State.submit_outcomeAt, Bool.or_eq_true, decide_eq_true_eq, List.length_cons]
    constructor
    · rintro ((h | h) | ⟨k, hk, h⟩)
      · exact .inl h
      · exact .inr ⟨0, by omega, h⟩
      · exact .inr ⟨k + 1, by omega, h⟩
    · rintro (h | ⟨k, hk, h⟩)
      · exact .inl (.inl h)
      · cases k with
        | zero => exact .inl (.inr h)
        | succ k => exact .inr ⟨k, by omega, h⟩

theorem allPos_nodup : allPos.Nodup := by decide

theorem allPos_getElem (p : Pos) : allPos[p.val]? = some p := by revert p; decide

@[simp] theorem State.submitAll_bank : s.submitAll.bank = s.bank := (s.foldl_submit_same allPos).1
@[simp] theorem State.submitAll_active : s.submitAll.active = s.active := (s.foldl_submit_same allPos).2.1
@[simp] theorem State.submitAll_rstate : s.submitAll.rstate = s.rstate := (s.foldl_submit_same allPos).2.2.1
@[simp] theorem State.submitAll_busReady : s.submitAll.busReady = s.busReady := (s.foldl_submit_same allPos).2.2.2.1
@[simp] theorem State.submitAll_setupDone : s.submitAll.setupDone = s.setupDone :=
  (s.foldl_submit_same allPos).2.2.2.2.1
@[simp] theorem State.submitAll_intensity : s.submitAll.intensity = s.intensity :=
  (s.foldl_submit_same allPos).2.2.2.2.2.1
@[simp] theorem State.submitAll_ill : s.submitAll.ill = s.ill := (s.foldl_submit_same allPos).2.2.2.2.2.2.1
@[simp] theorem State.submitAll_lastCause : s.submitAll.lastCause = s.lastCause :=
  (s.foldl_submit_same allPos).2.2.2.2.2.2.2.1
@[simp] theorem State.submitAll_pinEn : s.submitAll.pinEn = s.pinEn := (s.foldl_submit_same allPos).2.2.2.2.2.2.2.2.1
@[simp] theorem State.submitAll_pinOe : s.submitAll.pinOe = s.pinOe :=
  (s.foldl_submit_same allPos).2.2.2.2.2.2.2.2.2.1
@[simp] theorem State.submitAll_pinLatch : s.submitAll.pinLatch = s.pinLatch :=
  (s.foldl_submit_same allPos).2.2.2.2.2.2.2.2.2.2.1
@[simp] theorem State.submitAll_inputs : s.submitAll.inputs = s.inputs :=
  (s.foldl_submit_same allPos).2.2.2.2.2.2.2.2.2.2.2

theorem State.submitAll_hist :
    s.submitAll.hist = s.hist ++ allPos.map fun p => .submit p (s.memRead s.active p) (s.outcomeAt p.val) := by
  rw [State.submitAll, State.foldl_submit_hist]; rfl

theorem State.submitAll_out (p : Pos) :
    s.submitAll.out.get p = (decide (s.outcomeAt p.val = .ok) || s.out.get p) :=
  (s.foldl_submit_getElem allPos_nodup (allPos_getElem p)).1

theorem State.submitAll_xfer (p : Pos) :
    s.submitAll.xfer.get p = if s.outcomeAt p.val = .ok then some (s.memRead s.active p) else s.xfer.get p :=
  (s.foldl_submit_getElem allPos_nodup (allPos_getElem p)).2

theorem State.submitAll_submitErr :
    s.submitAll.submitErr = true ↔ s.submitErr = true ∨ ∃ p : Pos, s.outcomeAt p.val = .fail := by
  rw [State.submitAll, State.foldl_submit_submitErr]
  constructor
  · rintro (h | ⟨k, hk, h⟩)
    · exact .inl h
    · exact .inr ⟨⟨k, hk⟩, h⟩
  · rintro (h | ⟨p, h⟩)
    · exact .inl h
    · exact .inr ⟨p.val, p.isLt, h⟩

/-- The state a DISPLAY from IDLE submits from (42_refresh_scheduler.md R108). -/
def State.started (s : State) : State := { s.flipActive with rstate := .refreshing }

@[simp] theorem State.started_bank : s.started.bank = s.bank := rfl
@[simp] theorem State.started_active : s.started.active = 1 - s.active := rfl
@[simp] theorem State.started_rstate : s.started.rstate = .refreshing := rfl
@[simp] theorem State.started_out : s.started.out = s.out := rfl
@[simp] theorem State.started_xfer : s.started.xfer = s.xfer := rfl
@[simp] theorem State.started_busReady : s.started.busReady = s.busReady := rfl
@[simp] theorem State.started_setupDone : s.started.setupDone = s.setupDone := rfl
@[simp] theorem State.started_intensity : s.started.intensity = s.intensity := rfl
@[simp] theorem State.started_ill : s.started.ill = s.ill := rfl
@[simp] theorem State.started_lastCause : s.started.lastCause = s.lastCause := rfl
@[simp] theorem State.started_submitErr : s.started.submitErr = s.submitErr := rfl
@[simp] theorem State.started_pinEn : s.started.pinEn = s.pinEn := rfl
@[simp] theorem State.started_pinOe : s.started.pinOe = s.pinOe := rfl
@[simp] theorem State.started_pinLatch : s.started.pinLatch = s.pinLatch := rfl
@[simp] theorem State.started_hist : s.started.hist = s.hist := rfl
@[simp] theorem State.started_inputs : s.started.inputs = s.inputs := rfl
@[simp] theorem State.started_draws : s.started.draws = s.draws := rfl
@[simp] theorem State.started_drawIndex : s.started.drawIndex = s.drawIndex := rfl
@[simp] theorem State.started_outcomeAt (k : Nat) : s.started.outcomeAt k = s.outcomeAt k := rfl
@[simp] theorem State.started_memRead (b : BitVec 1) (p : Pos) : s.started.memRead b p = s.memRead b p := rfl

theorem State.trigger_of_idle (h : s.rstate = .idle) : s.trigger = s.started.submitAll := by
  simp [State.trigger, h, State.started]

theorem State.trigger_of_refreshing (h : s.rstate = .refreshing) : s.trigger = s.flipActive := by
  simp [State.trigger, h]

/-! ### The completion step -/

section
variable (p : Pos) (f : Frame)

/-- The state the re-submission of a completion starts from. -/
def State.latched (s : State) (p : Pos) (f : Frame) : State :=
  (((s.clearTransfer p).emit (.complete p f)).setLatch .high).emit (.latchHigh p)

/-- A completion while refresh runs: one submission between the latch edges. -/
theorem State.completed_of_refreshing (h : s.rstate = .refreshing) :
    s.completed p f = (((s.latched p f).submit p).setLatch .low).emit (.latchLow p) := by
  simp [State.completed, State.resubmit, h, State.latched]

/-- A completion in IDLE, which no run reaches (42_refresh_scheduler.md R112): no submission. -/
theorem State.completed_of_idle (h : s.rstate = .idle) :
    s.completed p f = ((s.latched p f).setLatch .low).emit (.latchLow p) := by
  simp [State.completed, State.resubmit, h, State.latched]

@[simp] theorem State.latched_memRead (b : BitVec 1) (q : Pos) : (s.latched p f).memRead b q = s.memRead b q := rfl
@[simp] theorem State.latched_submitStatus : (s.latched p f).submitStatus = s.submitStatus := rfl

/-- Everything a completion leaves as it was, and the latch line at rest. -/
theorem State.completed_same :
    (s.completed p f).bank = s.bank ∧ (s.completed p f).active = s.active ∧ (s.completed p f).rstate = s.rstate ∧
      (s.completed p f).busReady = s.busReady ∧ (s.completed p f).setupDone = s.setupDone ∧
      (s.completed p f).intensity = s.intensity ∧ (s.completed p f).ill = s.ill ∧
      (s.completed p f).lastCause = s.lastCause ∧ (s.completed p f).pinEn = s.pinEn ∧
      (s.completed p f).pinOe = s.pinOe ∧ (s.completed p f).pinLatch = .low ∧
      (s.completed p f).inputs = s.inputs := by
  cases h : s.rstate <;> simp [State.completed, State.resubmit, h]

/-- The events of a completion while refresh runs (42_refresh_scheduler.md R110). -/
theorem State.completed_hist (h : s.rstate = .refreshing) :
    (s.completed p f).hist = s.hist ++
      [.complete p f, .latchHigh p, .submit p (s.memRead s.active p) s.submitStatus, .latchLow p] := by
  rw [State.completed_of_refreshing s p f h]
  simp [State.submit_hist]
  simp [State.latched]

theorem State.completed_hist_idle (h : s.rstate = .idle) :
    (s.completed p f).hist = s.hist ++ [.complete p f, .latchHigh p, .latchLow p] := by
  rw [State.completed_of_idle s p f h]; simp [State.latched]

theorem State.completed_out (q : Pos) :
    (s.completed p f).out.get q =
      if p = q then decide (s.rstate = .refreshing ∧ s.submitStatus = .ok) else s.out.get q := by
  cases h : s.rstate
  · rw [State.completed_of_idle s p f h]; simp [State.latched, vector_get_set]
  · rw [State.completed_of_refreshing s p f h]
    simp only [State.emit_out, State.setLatch_out, State.submit_out, State.latched_submitStatus]
    by_cases hp : p = q <;> by_cases hst : s.submitStatus = .ok <;> simp [State.latched, vector_get_set, hp, hst]

theorem State.completed_xfer (q : Pos) :
    (s.completed p f).xfer.get q =
      if p = q then
        (if s.rstate = .refreshing ∧ s.submitStatus = .ok then some (s.memRead s.active p) else none)
      else s.xfer.get q := by
  cases h : s.rstate
  · rw [State.completed_of_idle s p f h]; simp [State.latched, vector_get_set]
  · rw [State.completed_of_refreshing s p f h]
    simp only [State.emit_xfer, State.setLatch_xfer, State.submit_xfer, State.latched_submitStatus]
    by_cases hp : p = q <;> by_cases hst : s.submitStatus = .ok <;>
      simp [State.latched, vector_get_set, hp, hst, State.memRead]

theorem State.completed_submitErr :
    (s.completed p f).submitErr =
      (s.submitErr || decide (s.rstate = .refreshing ∧ s.submitStatus = .fail)) := by
  cases h : s.rstate
  · rw [State.completed_of_idle s p f h]; simp [State.latched]
  · rw [State.completed_of_refreshing s p f h]; simp [State.submit_submitErr]; rfl

end

/-! ### Commands -/

/-- What a command word can do: an illegal command, an answer alone, a write into the pending bank, a swap, a level,
the accepted SETUP, or the first DISPLAY. -/
inductive CommandEffect (w : Word) (s : State) : State → Prop where
  | illegal (v : Word) (c : Cause) : CommandEffect w s (s.illegal v c)
  | answer (i : Instr) (d : Word) : CommandEffect w s (s.respond i d)
  | write (p : Pos) (f : Frame) (i : Instr) (d : Word) : CommandEffect w s ((s.memWrite s.pending p f).respond i d)
  | swap (i : Instr) (d : Word) : CommandEffect w s (s.flipActive.respond i d)
  | level (l : BitVec 4) (i : Instr) (d : Word) : CommandEffect w s ((s.setLevel l).respond i d)
  | setup (d : Word) (h : s.setupDone = false) : CommandEffect w s ((s.setUp (s.drawAt 0)).respond .setup d)
  | start (d : Word) (hw : decode w = .ok .display) (h : s.rstate = .idle) :
    CommandEffect w s (s.started.submitAll.respond .display d)

theorem commandStep_effect {w : Word} {s t : State} (h : commandStep w s = .next t) : CommandEffect w s t := by
  unfold commandStep at h
  cases hd : decode w with
  | error c => simp only [hd, Host.Outcome.next.injEq] at h; exact h ▸ .illegal w c
  | ok i =>
    simp only [hd] at h
    cases i with
    | setup =>
      cases hs : s.setupDone <;> simp only [exec, execSetup, hs, Host.Outcome.next.injEq] at h
      · exact h ▸ .setup _ hs
      · exact h ▸ .illegal _ _
    | setDigit pos char dot =>
      cases hp : posOf pos <;> simp only [exec, execSetDigit, State.withPos, hp, Host.Outcome.next.injEq] at h
      · exact h ▸ .illegal _ _
      · exact h ▸ .write _ _ _ _
    | writeFrame pos frame =>
      cases hp : posOf pos <;> simp only [exec, execWriteFrame, State.withPos, hp, Host.Outcome.next.injEq] at h
      · exact h ▸ .illegal _ _
      · exact h ▸ .write _ _ _ _
    | swap => simp only [exec, execSwap, Host.Outcome.next.injEq] at h; exact h ▸ .swap _ _
    | display =>
      cases hr : s.rstate <;> simp only [exec, execDisplay, Host.Outcome.next.injEq] at h
      · rw [State.trigger_of_idle s hr] at h; exact h ▸ .start _ hd hr
      · rw [State.trigger_of_refreshing s hr] at h; exact h ▸ .swap _ _
    | setIntensity level =>
      simp only [exec, execSetIntensity, Host.Outcome.next.injEq] at h; exact h ▸ .level _ _ _
    | encodeChar pos char dot =>
      cases hp : posOf pos <;> simp only [exec, execEncodeChar, State.withPos, hp, Host.Outcome.next.injEq] at h
      · exact h ▸ .illegal _ _
      · exact h ▸ .answer _ _
    | readFrame pos bank =>
      cases hp : posOf pos <;> simp only [exec, execReadFrame, State.withPos, hp, Host.Outcome.next.injEq] at h
      · exact h ▸ .illegal _ _
      · exact h ▸ .answer _ _
    | readStatus => simp only [exec, execReadStatus, Host.Outcome.next.injEq] at h; exact h ▸ .answer _ _

/-! ### Steps -/

/-- What an agent's step can do. -/
inductive InputEffect (s : State) : Input → State → Prop where
  | command (w : Word) (t : State) (h : CommandEffect w s t) : InputEffect s (.command w) t
  | complete (p : Pos) (f : Frame) (ho : s.out.get p = true) (hx : s.xfer.get p = some f) :
    InputEffect s (.complete p) (s.completed p f)
  | reset : InputEffect s .reset (resetStep s)

theorem inputStep_effect {e : Input} {s t : State} (h : inputStep e s = .next t) : InputEffect s e t := by
  cases e with
  | command w => exact .command w t (commandStep_effect h)
  | complete p =>
    rcases completionStep_cases s (r := .next t) h with ⟨-, h'⟩ | ⟨-, -, h'⟩ | ⟨f, ho, hx, h'⟩
    · cases h'
    · cases h'
    · cases h'; exact .complete p f ho hx
  | reset => cases h; exact .reset

/-- Two states that differ at most in the model's own fields. -/
def State.sameBlock (s s' : State) : Prop :=
  s' = { s with inputs := s'.inputs, draws := s'.draws, drawIndex := s'.drawIndex }

theorem State.sameBlock_of_inputs (rest : List Input) : s.sameBlock { s with inputs := rest } := rfl

/-- States with the same block agree on every element of 10_state.md R20. -/
theorem State.sameBlock.elements {s s' : State} (h : s.sameBlock s') :
    s'.bank = s.bank ∧ s'.active = s.active ∧ s'.rstate = s.rstate ∧ s'.out = s.out ∧ s'.xfer = s.xfer ∧
      s'.busReady = s.busReady ∧ s'.setupDone = s.setupDone ∧ s'.intensity = s.intensity ∧ s'.ill = s.ill ∧
      s'.lastCause = s.lastCause ∧ s'.submitErr = s.submitErr ∧ s'.pinEn = s.pinEn ∧ s'.pinOe = s.pinOe ∧
      s'.pinLatch = s.pinLatch ∧ s'.hist = s.hist := by
  rw [h]; simp

/-- Every step is an agent's step from the same block state, or waits. -/
theorem step_effect {s t : State} (h : step s = .next t) :
    (∃ e s0, s.sameBlock s0 ∧ InputEffect s0 e t ∧ (e = .reset → s.inputs.head? = some .reset)) ∨
      (t = s ∧ s.inputs = [] ∧ s.outstanding = []) := by
  unfold step takeStep at h
  cases hi : s.inputs with
  | cons e rest =>
    simp only [hi] at h
    refine .inl ⟨e, _, ?_, inputStep_effect h, fun he => by simp [he]⟩
    rfl
  | nil =>
    simp only [hi, quietStep] at h
    cases ho : s.outstanding with
    | nil => simp only [ho, Host.Outcome.next.injEq] at h; exact .inr ⟨h.symm, rfl, rfl⟩
    | cons p ps =>
      simp only [ho] at h
      refine .inl ⟨.complete _, _, ?_, inputStep_effect (e := .complete _) h, fun he => by cases he⟩
      rfl

end Sys2Proof.Machine
end

