-- ==== Sys2Proof/Tests/Slice0.lean ====
section
/-! SUPPORT. The model's own tests. Expected values come from 95_test_vectors.md (their ids stand beside them) or are
written out by hand from the encodings of 30_encoding.md; none is the model's own answer. The last part gives, for every
obligation with hypotheses, a state and operands that meet them. -/

namespace Sys2Proof.Tests

open Sys2Proof Sys2Proof.Machine

/-! ### Well-formedness refuses an ill-formed term, check by check (30_encoding.md R70) -/

theorem test_wellFormed_setDigit : (Instr.setDigit 9 0x31 false).wellFormed = false := by decide
theorem test_wellFormed_writeFrame : (Instr.writeFrame 15 0x3F0100).wellFormed = false := by decide
theorem test_wellFormed_encodeChar : (Instr.encodeChar 9 0x30 true).wellFormed = false := by decide
theorem test_wellFormed_readFrame : (Instr.readFrame 10 1).wellFormed = false := by decide
theorem test_wellFormed_position8 : (Instr.readFrame 8 1).wellFormed = true := by decide

/-! ### Words written out bit by bit from 30_encoding.md R60 -/

theorem test_decode_setup : decode 0b00010000000000000000000000000000 = .ok .setup := by decide
theorem test_decode_setDigit :
    decode 0b00101000000000000000000100111000 = .ok (.setDigit 8 0x38 true) := by decide -- V-D2
theorem test_decode_writeFrame :
    decode 0b00110011001111110000000100000000 = .ok (.writeFrame 3 0x3F0100) := by decide -- V-S1
theorem test_decode_swap : decode 0b01000000000000000000000000000000 = .ok .swap := by decide
theorem test_decode_display : decode 0b01010000000000000000000000000000 = .ok .display := by decide
theorem test_decode_setIntensity : decode 0b01100000000000000000000000001111 = .ok (.setIntensity 15) := by decide
theorem test_decode_encodeChar :
    decode 0b01110110000000000000000100110010 = .ok (.encodeChar 6 0x32 true) := by decide -- V-E3
theorem test_decode_readFrame : decode 0b10000011000000000000000000000001 = .ok (.readFrame 3 1) := by decide
theorem test_decode_readStatus : decode 0b10010000000000000000000000000000 = .ok .readStatus := by decide

/-- The same words from the encoder: `0x28000138` (V-D2), `0x333F0100` (V-S1), `0x76000132` (V-E3), `0x83000001`
(V-S2), `0x6000000F` (V-C2). -/
theorem test_encode_words :
    encode (.setDigit 8 0x38 true) = 0x28000138 ∧ encode (.writeFrame 3 0x3F0100) = 0x333F0100 ∧
      encode (.encodeChar 6 0x32 true) = 0x76000132 ∧ encode (.readFrame 3 1) = 0x83000001 ∧
      encode (.setIntensity 15) = 0x6000000F := by decide

/-- V-X1 to V-X9, V-X11, V-X12, V-R4: causes and their order. -/
theorem test_decode_illegal :
    [0x00000000, 0xA0000000, 0xF0000000, 0xFFFFFFFF, 0x40000001, 0x1F000000, 0x6F000000, 0x29000031, 0x2F000231,
        0x5000FFFF, 0x3F123456, 0x18000000].map (fun w => decode w) =
      ([.error .reservedOpcode, .error .reservedOpcode, .error .reservedOpcode, .error .reservedOpcode,
        .error .reservedField, .error .reservedField, .error .reservedField, .error .posRange, .error .reservedField,
        .error .reservedField, .error .posRange, .error .reservedField] : List (Except Cause Instr)) := by decide

theorem test_decodeTableWord : decodeTableWord 32 0x76000132 = some (.encodeChar 6 0x32 true) := by decide

/-! ### The frame encoder under TCFG (95_test_vectors.md section 1) -/

/-- TCFG's font; its dot bit is 7. Not the hardware's table. -/
def tcfgFont (c : Byte) : Byte :=
  match c.toNat with
  | 0x30 => 0x3F | 0x31 => 0x06 | 0x32 => 0x5B | 0x33 => 0x4F | 0x34 => 0x66 | 0x35 => 0x6D | 0x36 => 0x7D
  | 0x37 => 0x07 | 0x38 => 0x7F | 0x39 => 0x6F
  | 0x41 => 0x77 | 0x42 => 0x7C | 0x43 => 0x39 | 0x44 => 0x5E | 0x45 => 0x79 | 0x46 => 0x71
  | 0x61 => 0x77 | 0x62 => 0x7C | 0x63 => 0x39 | 0x64 => 0x5E | 0x65 => 0x79 | 0x66 => 0x71
  | 0x2D => 0x40 | 0x5F => 0x08
  | _ => 0x00

theorem test_tcfg_legal : FontLegal tcfgFont 7 := ⟨by decide, by decide⟩

/-- V-E1, V-E2, V-E3, V-E9, V-E10, V-E12, V-E13, V-E16, V-E20, V-E23. -/
theorem test_encode_tcfg :
    encodeFrameWith tcfgFont 7 0 0x30 false = 0x3F0100 ∧ encodeFrameWith tcfgFont 7 7 0x31 false = 0x068000 ∧
      encodeFrameWith tcfgFont 7 6 0x32 true = 0xDB4000 ∧ encodeFrameWith tcfgFont 7 8 0x38 false = 0x7F0000 ∧
      encodeFrameWith tcfgFont 7 8 0x38 true = 0xFF0000 ∧ encodeFrameWith tcfgFont 7 3 0x20 false = 0x000800 ∧
      encodeFrameWith tcfgFont 7 3 0x20 true = 0x800800 ∧ encodeFrameWith tcfgFont 7 0 0x2D false = 0x400100 ∧
      encodeFrameWith tcfgFont 7 1 0x46 true = 0xF10200 ∧ encodeFrameWith tcfgFont 7 8 0x80 true = 0x800000 := by
  decide

theorem test_decodeFrame : decodeFrame 0xDB4000 = ⟨0xDB, 0x40, 0x00⟩ ∧ selectedPosition 0xDB4000 = some 6 ∧
    selectedPosition 0xFF0000 = none := by decide

/-! ### One command on a small state -/

/-- A field of the next state. -/
def next? {α : Type} (r : Result) (field : State → α) : Option α :=
  match r with
  | .next s => some (field s)
  | .fault _ => none
  | .refused _ => none

/-- After SETUP with a good bus, with TCFG's pin levels (V-R1's end). -/
def busUp : State :=
  { State.reset with
    setupDone := true, busReady := true, pinEn := .high, pinOe := .low, pinLatch := .low
    hist := [.reset, .busInit .ok, .cmd 0x10000000 false 1] }

/-- V-R9's start, and one more answer of the bus to come. -/
def inFlight7 (st : BusStatus) : State :=
  { busUp with
    active := 1, rstate := .refreshing, out := busUp.out.set 7 true, xfer := busUp.xfer.set 7 (some 0x068000)
    bank := busUp.bank.set 1 ((Vector.replicate 9 0#24).set 7 0x668000), draws := [st] }

/-- V-R1, V-R2: SETUP answers BUS_READY for both outcomes; the latch rests at 0. -/
theorem test_setup_ok :
    next? (exec .setup { State.reset with draws := [.ok] })
      (fun s => (s.response, s.busReady, s.setupDone, s.pinLatch)) =
      some (some (false, 1), true, true, .low) := by decide
theorem test_setup_fail_and_repeat :
    next? (exec .setup { State.reset with draws := [.fail] }) (fun s => (s.response, s.busReady)) =
        some (some (false, 0), false) ∧
      next? (exec .setup busUp) (fun s => (s.response, s.status)) = some (some (true, 4), 0x0200401C) := by
  decide -- V-R3

/-- V-E12 on the machine: space is unmapped whatever the font. -/
theorem test_encodeChar :
    next? (exec (.encodeChar 3 0x20 false) State.reset) (fun s => (s.response, s.memRead 1 3)) =
      some (some (false, 0x00000800), 0) := by decide
theorem test_encodeChar_position8 :
    next? (exec (.encodeChar 8 0x00 false) State.reset) State.response = some (some (false, 0)) := by decide

/-- 40_frame_encoder.md R86 with an unmapped character: the pending bank, not the active one. -/
theorem test_setDigit :
    next? (exec (.setDigit 3 0x20 false) State.reset) (fun s => (s.response, s.memRead 1 3, s.memRead 0 3)) =
      some (some (false, 0x00000800), 0x000800, 0) := by decide
theorem test_setDigit_active1 :
    next? (exec (.setDigit 7 0x2E false) { State.reset with active := 1 }) (fun s => (s.memRead 0 7, s.memRead 1 7)) =
      some (0x008000, 0) := by decide

theorem test_writeFrame_pending : -- V-S1
    next? (exec (.writeFrame 3 0x3F0100) State.reset) (fun s => (s.response, s.memRead 1 3, s.memRead 0 3)) =
      some (some (false, 0x003F0100), 0x3F0100, 0) := by decide
theorem test_writeFrame_raw_position8 : -- V-S9
    next? (exec (.writeFrame 8 0xFFFFFF) State.reset) (fun s => (s.memRead 1 8, s.memRead 1 7)) =
      some (0xFFFFFF, 0) := by decide

theorem test_swap : -- V-S4
    next? (exec .swap State.reset) (fun s => (s.response, s.active, s.rstate)) =
      some (some (false, 1), 1, .idle) := by decide
theorem test_swap_back : -- V-S7
    next? (exec .swap { State.reset with active := 1 }) (fun s => (s.response, s.active)) =
      some (some (false, 0), 0) := by decide

theorem test_readFrame : -- V-S2, V-S3
    next? (exec (.readFrame 3 1) (State.reset.memWrite 1 3 0x3F0100)) State.response =
        some (some (false, 0x003F0100)) ∧
      next? (exec (.readFrame 3 0) (State.reset.memWrite 1 3 0x3F0100)) State.response = some (some (false, 0)) := by
  decide

theorem test_setIntensity : -- V-C2
    next? (exec (.setIntensity 15) State.reset) (fun s => (s.response, s.status)) =
      some (some (false, 15), 0x00000F00) := by decide

theorem test_readStatus : -- V-C1, and P3 step 4's word
    next? (exec .readStatus State.reset) State.response = some (some (false, 0)) ∧
      next? (exec .readStatus { busUp with
        active := 1, rstate := .refreshing, busReady := false, submitErr := true }) State.response =
        some (some (false, 0x0200002B)) := by decide

theorem test_display_first : -- V-R6: the bus turns position 4 away
    next? (exec .display { busUp with draws := [.ok, .ok, .ok, .ok, .fail, .ok, .ok, .ok, .ok] })
      (fun s => (s.response, s.status, s.xfer.get 4, s.hist.countP Event.isSubmit)) =
      some (some (false, 1), 0x03EF002F, none, 9) := by decide
theorem test_display_degraded : -- V-R7
    next? (exec .display State.reset) (fun s => (s.response, s.status)) = some (some (false, 1), 0x00000023) := by
  decide

theorem test_completion_ok : -- V-R10
    next? (completionStep 7 (inFlight7 .ok)) (fun s => (s.hist.drop 3, s.xfer.get 7, s.pinLatch)) =
      some ([.complete 7 0x068000, .latchHigh 7, .submit 7 0x668000 .ok, .latchLow 7], some 0x668000, .low) := by
  decide
theorem test_completion_fail : -- V-R12, with V-R10's bank
    next? (completionStep 7 (inFlight7 .fail)) (fun s => (s.out.get 7, s.xfer.get 7, s.submitErr)) =
      some (false, none, true) := by decide

theorem test_illegal_word : -- V-C5, V-S12
    next? (step { State.reset with inputs := [.command 0x90000001] }) (fun s => (s.response, s.status)) =
        some (some (true, 2), 0x00002010) ∧
      next? (step { State.reset with inputs := [.command 0x40000001] }) (fun s => (s.active, s.inputs)) =
        some (0, []) := by decide

theorem test_withFetchWord : next? (step (State.reset.withFetchWord 32 0x40000000)) State.active = some 1 := by decide

theorem test_reset_step :
    next? (step { inFlight7 .ok with inputs := [.reset, .complete 7] }) (fun s => (s.out.get 7, s.hist, s.inputs)) =
      some (false, [.reset], [.complete 7]) := by decide

/-! ### Host pseudo-operations -/

theorem test_print : -- V-P1, V-P9
    (print (ascii "12.3")).map (·.map encode) = some [0x27000031, 0x26000132, 0x25000033, 0x50000000] ∧
      (print (ascii "123456789")).map (·.map encode) = some [0x27000031, 0x26000032, 0x25000033, 0x24000034,
        0x23000035, 0x22000036, 0x21000037, 0x20000038, 0x50000000] := by decide

theorem test_assembler : -- 30_encoding.md R74 and the command of V-E3
    assembleLine (ascii "ENCODE      6, '2' , dot") = some [.encodeChar 6 0x32 true] ∧
      assembleLine (ascii "SWAP 1") = none := by decide

/-! ### States and operands that meet the hypotheses of the obligations -/

/-- Refresh runs, every transfer outstanding (V-R5's end, with blank frames). -/
def running : State :=
  { busUp with
    active := 1, rstate := .refreshing, out := Vector.replicate 9 true, xfer := Vector.replicate 9 (some 0)
    hist := busUp.hist ++ (allPos.map fun p => .submit p 0 .ok) ++ [.cmd 0x50000000 false 1] }

theorem witness_busUp_inv : busUp.Inv :=
  ⟨by decide, by decide, by decide, by decide, by decide, by decide⟩
theorem witness_running_inv : running.Inv :=
  ⟨by decide, by decide, by decide, by decide, by decide, by decide⟩

/-- A reset state that the schedule resets again: ResetStepDiscardsEverything. -/
theorem witness_reset_input : ({ running with inputs := [.reset] } : State).inputs = .reset :: [] := rfl

/-- DecodeEncodeAgree, PresentedWordRuns: every position 0 to 8, and a command without one. -/
theorem witness_wellFormed :
    (∀ p : Pos, (Instr.setDigit (posBits p) 0xFF true).wellFormed = true) ∧ Instr.setup.wellFormed = true := by decide

/-- EncodeDecodeAgree, StepRunsDecodedCommand: a word that decodes, at the head of the port. -/
theorem witness_decodes : decode 0x28FF0138 = .error .reservedField ∧ decode 0x38FFFFFF = .ok (.writeFrame 8 0xFFFFFF) ∧
    ({ State.reset with inputs := [.command 0x38FFFFFF] } : State).inputs = .command 0x38FFFFFF :: [] := by decide

/-- OpcodeRowsDisjoint. -/
theorem witness_row : (0x700001FF : Word) &&& Op.mask .encodeChar = Op.pattern .encodeChar := by decide

/-- DecodeChecksInOrder and the rules of the commands, each clause at a boundary: opcodes 0, 10 and 15; a reserved bit
next to a field; positions 8 and 9. -/
theorem witness_checks :
    ((0x0FFFFFFF : Word).extractLsb' 28 4).toNat = 0 ∧ ((0xA0000000 : Word).extractLsb' 28 4).toNat = 10 ∧
      ((0xF0000000 : Word).extractLsb' 28 4).toNat = 15 ∧
      (0x20000200 : Word) &&& 0xF0FFFE00 ≠ 0x20000000 ∧ (0x290001FF : Word) &&& 0xF0FFFE00 = 0x20000000 ∧
      ((0x290001FF : Word).extractLsb' 24 4).toNat = 9 ∧ (0x780001FF : Word) &&& 0xF0FFFE00 = 0x70000000 ∧
      ((0x780001FF : Word).extractLsb' 24 4).toNat = 8 ∧ (0x88000001 : Word) &&& 0xF0FFFFFE = 0x80000000 ∧
      (0x80000002 : Word) &&& 0xF0FFFFFE ≠ 0x80000000 ∧ (0x39000000 : Word) &&& 0xF0000000 = 0x30000000 ∧
      (0x6000000F : Word) &&& 0xFFFFFFF0 = 0x60000000 ∧ (0x60000010 : Word) &&& 0xFFFFFFF0 ≠ 0x60000000 ∧
      (0x40000001 : Word) &&& 0xFFFFFFFF ≠ 0x40000000 := by decide

/-- The positions of the command rules: 8 is in range, 9 is not. -/
theorem witness_positions : (8 : BitVec 4).toNat < 9 ∧ 9 ≤ (9 : BitVec 4).toNat := by decide

/-- IllegalCommandEffect, EachCommandAnswersOnce: an illegal word at the port, and the step it gives. -/
theorem witness_illegal :
    decode 0xA0000000 = .error .reservedOpcode ∧
      (next? (step { busUp with inputs := [.command 0xA0000000] }) State.ill = some true) ∧
      next? (step { busUp with inputs := [.command 0x90000000] }) State.ill = some false := by decide

/-- DotFlagAddsDotBit, UnmappedCharacterBlank, FontMeetsItsLimits: TCFG, and an unmapped character. -/
theorem witness_font : FontLegal tcfgFont 7 ∧ mapped 0x2E = false ∧ 0x80 ≤ (0x80 : Byte).toNat :=
  ⟨test_tcfg_legal, by decide, by decide⟩

/-- SetupRule, BusInitBothOutcomesAdmitted, DisplayRule, SwapAndDisplayAlikeWhileRefreshing: each mode. -/
theorem witness_modes :
    State.reset.setupDone = false ∧ busUp.setupDone = true ∧ busUp.rstate = .idle ∧ running.rstate = .refreshing := by
  decide

/-- SubmitEffect: both premises on BUS_READY, and both outcomes. -/
theorem witness_submit :
    State.reset.busReady = false ∧ busUp.busReady = true ∧ (inFlight7 .ok).submitStatus = .ok ∧
      (inFlight7 .fail).submitStatus = .fail := by decide

/-- WritesThenSwapReadBack: two writes to one position, and one to position 8. -/
theorem witness_writes :
    ∀ i ∈ [Instr.writeFrame 3 0x3F0100, .setDigit 3 0x20 true, .writeFrame 8 1], (writtenBy i).isSome = true := by decide

/-- The step rules (BankOwnership, OnlyResetClears, NeverSubmitsOverOutstanding,
InvariantKeptByEveryStep and their like): a state that meets the invariant, whose next input is no reset, and that has
a next state. -/
theorem witness_step :
    ({ running with inputs := [.complete 8], draws := [.ok] } : State).inputs.head? ≠ some .reset ∧
      next? (step { running with inputs := [.complete 8], draws := [.ok] }) (fun s => s.hist.countP Event.isSubmit) =
        some 10 ∧
      next? (step { busUp with inputs := [.command 0x50000000], draws := List.replicate 9 .ok })
        (fun s => s.out.get 8) = some true := by decide

/-- CompletionRule, AnyOutstandingMayComplete, SubmissionsPerStep: an outstanding transfer with its payload; and the
IDLE clause, which no run reaches. -/
theorem witness_completion :
    running.out.get 8 = true ∧ running.xfer.get 8 = some 0 ∧ running.rstate = .refreshing ∧
      ({ running with rstate := .idle } : State).out.get 8 = true := by decide

/-- SpuriousCompletionHasNoStep. -/
theorem witness_spurious : busUp.out.get 0 = false ∧ completionStep 0 busUp = .refused .noSuchTransfer :=
  ⟨by decide, rfl⟩

/-- StalledUntilReset: a stalled position and a step. -/
theorem witness_stalled :
    (inFlight7 .fail).stalled 3 = true ∧
      next? (step { inFlight7 .fail with inputs := [.complete 7] }) (fun s => s.stalled 3) = some true := by decide

/-- CompletionReadsOnlyItsInputs: two states that differ elsewhere and agree on what the completion reads. -/
theorem witness_two_states :
    next? (completionStep 7 (inFlight7 .ok)) (fun s => s.out.get 7) = some true ∧
      next? (completionStep 7 { inFlight7 .ok with intensity := 9, ill := true }) (fun s => s.out.get 7) = some true ∧
      (inFlight7 .ok).submitStatus = ({ inFlight7 .ok with intensity := 9, ill := true } : State).submitStatus := by
  decide

/-- DegradedUntilReset: IDLE with the bus not ready, which meets the invariant; then a run without reset. -/
theorem witness_degraded : State.reset.Inv ∧ State.reset.rstate = .idle ∧ State.reset.busReady = false ∧
    next? (runInputs [.command 0x50000000, .command 0x40000000] State.reset) State.submitErr = some true :=
  ⟨⟨by decide, by decide, by decide, by decide, by decide, by decide⟩, by decide, by decide, by decide⟩

/-- CommandsKeepTransfersInFlight. -/
theorem witness_command_in_flight :
    next? (commandStep 0x31000001 running) (fun s => (s.out.get 1, s.memRead 0 1)) = some (true, 1) ∧
      running.rstate = .refreshing ∧ decode 0x31000001 ≠ .ok .display := by decide

/-- SwapLatencyTwoCompletions: between the swap and the first completion a write and a completion of another position,
and between the two completions a write. -/
theorem witness_latency :
    running.rstate = .refreshing ∧ running.out.get 7 = true ∧ running.xfer.get 7 = some 0 ∧
      (∀ e ∈ [Input.command 0x37000001, .complete 3], e.leavesTransfer 7 = true) ∧
      next? (runInputs [.command 0x37000001, .complete 3] { running with draws := [.ok, .ok, .ok] })
        (fun s => (s.submitStatus, s.out.get 7, s.draws.length)) = some (.ok, true, 2) ∧
      next? (runInputs [.command 0x37000001, .complete 3, .complete 7, .command 0x37000002]
        { running with draws := [.ok, .ok, .ok] }) (fun s => s.memRead 0 7) = some 2 := by decide

/-- IntensityChangesNoOutput: two schedules that differ in a SET_INTENSITY command only. -/
theorem witness_schedules :
    [Input.command 0x6000000F, .command 0x40000000].filter Input.notIntensity =
      [Input.command 0x40000000, .command 0x60000003].filter Input.notIntensity := by decide

/-- LastCauseStaysLegal: the highest code there is. -/
theorem witness_lastCause : (4 : BitVec 4).toNat ≤ 4 := by decide

/-- MachineNeverStuck, QuietBusCompletesOrWaits: no step named, and nothing or something outstanding. -/
theorem witness_quiet :
    busUp.inputs = [] ∧ (∀ p, busUp.out.get p = false) ∧ running.inputs = [] ∧ running.out.get 4 = true := by decide

/-- HistoryTellsStatus, TransfersConserved, StallAlwaysRecorded: the reset state. -/
theorem witness_reset_history :
    State.reset.HistInv ∧ State.reset.TransferInv ∧ State.reset.StallInv := by
  refine ⟨⟨rfl, rfl, ?_, ?_, ?_, ?_, ?_, ?_⟩, ⟨?_, ?_⟩, ?_⟩
  all_goals simp [State.reset, acceptedCount, finishedCount, heldByBus, Event.accepts, Event.finishes, State.StallInv,
    State.stalled]

/-- TransfersConserved, QueueNeverOverflows: with all nine transfers outstanding, and a step from there that is a next
state. `running` meets the invariant too (witness_running_inv). -/
theorem witness_transfers_running :
    running.TransferInv ∧
      next? (step { running with inputs := [.complete 8], draws := [.ok] }) (fun s => acceptedCount 8 s.hist) = some 2 := by
  have hx : ∀ p, running.xfer.get p = lastAccepted p running.hist := by decide
  exact ⟨⟨by decide, fun p f h => hx p ▸ h⟩, by decide⟩

/-- HistoryTellsStatus: the flags' events, with all nine transfers outstanding and after one completion. -/
theorem witness_held :
    (∀ p, running.out.get p = heldByBus p running.hist) ∧
      next? (completionStep 7 (inFlight7 .fail)) (fun s => heldByBus 7 (.submit 7 0 .ok :: s.hist)) = some false := by
  decide

/-- PrintPlacesDownward, PrintKeepsOtherPositions: a text without NUL, and positions on each side of what it covers. -/
theorem witness_text :
    0 ∉ ascii "12.3" ∧ (print (ascii "12.3")).map List.length = some 4 ∧ ((8 : Pos).val > 7 - 0) ∧
      (4 : Pos).val + 0 + (4 - 1) < 8 ∧ ¬((5 : Pos).val + 0 + (4 - 1) < 8) := by decide

/-- PrintPlacesDownward at counter 7: V-P6's dot is taken, V-P5's third character and V-P7's only one are left over. -/
theorem witness_reads :
    ReadsAs 7 (ascii "8.") [(0x38, true)] [] ∧
      ReadsAs 6 (ascii "123") [(0x31, false), (0x32, false)] [0x33] ∧ ReadsAs 8 (ascii "1") [] [0x31] := by
  refine ⟨⟨by decide, fun k c h => ?_, by decide, by decide⟩, ⟨by decide, fun k c h => ?_, by decide, by decide⟩,
    ⟨by decide, fun k c h => by simp at h, by decide, by decide⟩⟩
  · match k with
    | 0 => simp at h
    | k + 1 => simp at h
  · match k with
    | 0 => decide
    | 1 => decide
    | k + 2 => simp at h

/-- `reliable` speaks of draws only: a DISPLAY before SETUP draws nothing, and its nine failures leave the run reliable
(70_reset_and_hazards.md R175, 42_refresh_scheduler.md R107). -/
theorem test_reliable_without_draws :
    next? (exec .display State.reset) (fun s => decide (.submit 4 0 .fail ∈ s.hist)) = some true ∧
      ∀ t, exec .display State.reset = .next t → t.reliable := by
  refine ⟨by decide, fun t ht before p f after h hmem => ?_⟩
  have hall : ∀ u, exec .display State.reset = .next u → Event.busInit .ok ∉ u.hist := by
    intro u hu
    injection hu with hu
    subst hu
    decide
  exact hall t ht (h ▸ List.mem_append_left _ hmem)

/-- With the bus ready a failed submission was a draw, and the run is not reliable. -/
theorem test_not_reliable : ¬ ({ running with hist := running.hist ++ [.submit 3 0 .fail] } : State).reliable :=
  fun h => h running.hist 3 0 [] rfl (by decide)

/-! ### A fair, reliable run (ReliableRefreshNeverStalls) -/

/-- SETUP, DISPLAY, then the positions complete in turn. -/
def turns : Nat → Input
  | 0 => .command 0x10000000
  | 1 => .command 0x50000000
  | n + 2 => .complete ⟨n % 9, Nat.mod_lt n (by decide)⟩

/-- A bus that always answers OK. -/
def yes : List BusStatus := List.replicate 9 .ok

/-- The states of that run. -/
def turnStates : Nat → State
  | 0 => State.reset
  | n + 1 =>
    match inputStep (turns n) { turnStates n with draws := yes } with
    | .next t => t
    | .fault _ => turnStates n
    | .refused _ => turnStates n

/-- Every position is in flight and no submission has failed. -/
structure InFlight (s : State) : Prop where
  refreshing : s.rstate = .refreshing
  ready : s.busReady = true
  out : ∀ p, s.out.get p = true
  payload : ∀ p, (s.xfer.get p).isSome = true
  noFailure : ∀ e ∈ s.hist, ∀ p f, e ≠ .submit p f .fail

/-- A state with the bus about to answer OK. -/
def withYes (s : State) : State := { s with draws := yes }

theorem inFlight_withYes {s : State} (h : InFlight s) : InFlight (withYes s) ∧ (withYes s).submitStatus = .ok :=
  ⟨⟨h.refreshing, h.ready, h.out, h.payload, h.noFailure⟩, by
    rw [State.submitStatus_of_ready (s := withYes s) h.ready]; rfl⟩

/-- A completion in such a state that is answered OK leads to such a state. -/
theorem inFlight_completed {s : State} (h : InFlight s) (hok : s.submitStatus = .ok) (p : Pos) :
    ∃ t, inputStep (.complete p) s = .next t ∧ InFlight t := by
  obtain ⟨f, hf⟩ := Option.isSome_iff_exists.mp (h.payload p)
  have hsame := s.completed_same p f
  refine ⟨_, completionStep_of_outstanding s (h.out p) hf, hsame.2.2.1.trans h.refreshing,
    hsame.2.2.2.1.trans h.ready, fun q => ?_, fun q => ?_, fun e he => ?_⟩
  · rw [State.completed_out]; split
    · exact decide_eq_true ⟨h.refreshing, hok⟩
    · exact h.out q
  · rw [State.completed_xfer]; split
    · rw [if_pos ⟨h.refreshing, hok⟩]; rfl
    · exact h.payload q
  · rw [State.completed_hist s p f h.refreshing, hok] at he
    rcases List.mem_append.mp he with he | he
    · exact h.noFailure e he
    · intro q g heq
      subst heq
      simp at he

theorem inFlight_completion {s : State} (h : InFlight s) (p : Pos) :
    ∃ t, inputStep (.complete p) (withYes s) = .next t ∧ InFlight t :=
  inFlight_completed (inFlight_withYes h).1 (inFlight_withYes h).2 p

theorem turnStates_succ {n : Nat} {t : State} (h : inputStep (turns n) (withYes (turnStates n)) = .next t) :
    turnStates (n + 1) = t := by
  show (match inputStep (turns n) (withYes (turnStates n)) with
    | .next t => t
    | .fault _ => turnStates n
    | .refused _ => turnStates n) = t
  rw [h]

theorem turnStates_two : InFlight (turnStates 2) :=
  ⟨by decide, by decide, by decide, by decide, by
    have hall : (turnStates 2).hist.all (fun e => match e with | .submit _ _ .fail => false | _ => true) = true := by
      decide
    intro e he p f heq
    have := List.all_eq_true.mp hall e he
    rw [heq] at this
    simp at this⟩

theorem turnStates_inFlight (n : Nat) : InFlight (turnStates (n + 2)) ∧
    inputStep (turns (n + 2)) (withYes (turnStates (n + 2))) = .next (turnStates (n + 3)) := by
  have next : ∀ m, InFlight (turnStates (m + 2)) →
      InFlight (turnStates (m + 3)) ∧
        inputStep (turns (m + 2)) (withYes (turnStates (m + 2))) = .next (turnStates (m + 3)) := by
    intro m hm
    obtain ⟨t, ht, hI⟩ := inFlight_completion hm ⟨m % 9, Nat.mod_lt m (by decide)⟩
    have hs : turnStates (m + 3) = t := turnStates_succ (n := m + 2) ht
    exact ⟨hs ▸ hI, hs ▸ ht⟩
  induction n with
  | zero => exact ⟨turnStates_two, (next 0 turnStates_two).2⟩
  | succ n ih => exact ⟨(next n ih.1).1, (next (n + 1) (next n ih.1).1).2⟩

theorem turnStates_noFailure (n : Nat) (p : Pos) (f : Frame) : Event.submit p f .fail ∉ (turnStates n).hist := by
  match n with
  | 0 => simp [turnStates, State.reset]
  | 1 =>
    intro h
    have hall : (turnStates 1).hist.all (fun e => match e with | .submit _ _ .fail => false | _ => true) = true := by
      decide
    have := List.all_eq_true.mp hall _ h
    simp at this
  | n + 2 => exact fun h => (turnStates_inFlight n).1.noFailure _ h p f rfl

/-- All the premises of ReliableRefreshNeverStalls together, with the first DISPLAY as step 1. -/
theorem witness_reliable_run :
    IsRun turns turnStates ∧ Fair turns turnStates ∧ (turnStates 0).fresh ∧ (∀ n, (turnStates n).reliable) ∧
      (∀ n, turns n ≠ .reset) ∧ (turnStates 1).busOk ∧ (turnStates 1).rstate = .idle ∧
      turns 1 = .command 0x50000000 := by
  refine ⟨fun n => ⟨yes, ?_⟩, fun n p _ => ?_, rfl, fun n => ?_, fun n => ?_, ?_, by decide, rfl⟩
  · match n with
    | 0 => rfl
    | 1 => rfl
    | n + 2 => exact (turnStates_inFlight n).2
  · refine ⟨9 * (n + 1) + p.val + 2, by omega, ?_⟩
    have := p.isLt
    simp only [turns, Input.complete.injEq, Fin.ext_iff]
    omega
  · intro before p f after h _
    exact turnStates_noFailure n p f (h ▸ by simp)
  · match n with
    | 0 => simp [turns]
    | 1 => simp [turns]
    | n + 2 => simp [turns]
  · show Event.busInit .ok ∈ (turnStates 1).hist
    decide

end Sys2Proof.Tests
end

/-! Proofs of the family 10_state.md: the reset values, the invariant I-a to I-e, the history that tells the flags, and
the conservation of transfers. -/

namespace Sys2Proof.Machine

/-! ### The reset state -/

@[simp] theorem reset_memRead (b : BitVec 1) (p : Pos) : State.reset.memRead b p = 0x000000#24 := by
  simp [State.memRead, State.reset, Vector.get_eq_getElem]

@[simp] theorem reset_out (p : Pos) : State.reset.out.get p = false := by simp [State.reset, Vector.get_eq_getElem]

@[simp] theorem reset_xfer (p : Pos) : State.reset.xfer.get p = none := by simp [State.reset, Vector.get_eq_getElem]

theorem reset_inv : State.reset.Inv where
  idle_none_out _ := reset_out
  out_iff_payload p := by simp
  latch_rests := by decide
  unready_none_out _ := reset_out
  ill_iff_cause := by decide
  ready_after_setup _ := rfl

/-- The one event of the reset history is the cause of no flag. -/
theorem reset_histInv : State.reset.HistInv where
  starts_reset := rfl
  one_reset := rfl
  ill_iff := by simp [State.reset]
  submitErr_iff := by simp [State.reset]
  setupDone_iff := by simp [State.reset]
  busReady_iff := by simp [State.reset]
  refreshing_iff := by simp [State.reset]
  out_eq p := reset_out p

theorem reset_transferInv : State.reset.TransferInv where
  balance p := by rw [reset_out]; rfl
  payload p f h := by simp at h

theorem reset_stallInv : State.reset.StallInv := by
  intro p h
  simp [State.stalled, State.reset] at h

/-! ### The invariant of 10_state.md R40 -/

variable {s t : State}

theorem State.Inv.sameBlock (h : s.Inv) (hs : s.sameBlock t) : t.Inv := hs ▸ { h with }

theorem State.Inv.resetStep (s : State) : (resetStep s).Inv := { reset_inv with }

/-- The nine submissions keep the clauses: each pairs OUT with XFER, and only a ready bus accepts. -/
theorem State.Inv.start (h : s.Inv) : s.started.submitAll.Inv where
  idle_none_out hr := by simp at hr
  out_iff_payload p := by
    rw [State.submitAll_out, State.submitAll_xfer]
    by_cases hok : s.outcomeAt p.val = .ok <;> simp [hok, h.out_iff_payload p]
  latch_rests := by simpa using h.latch_rests
  unready_none_out hb p := by
    simp only [State.submitAll_busReady, State.started_busReady] at hb
    simp [State.submitAll_out, State.outcomeAt, hb, h.unready_none_out hb p]
  ill_iff_cause := by simpa using h.ill_iff_cause
  ready_after_setup := by simpa using h.ready_after_setup

/-- A command keeps the invariant: only an illegal one writes ILL and LAST_CAUSE, only an accepted SETUP writes the bus
and the latch, and only the first DISPLAY writes transfers. -/
theorem State.Inv.command {w : Word} (h : s.Inv) (ht : CommandEffect w s t) : t.Inv := by
  cases ht with
  | illegal v c => exact { h with ill_iff_cause := iff_of_false (by simp [State.illegal]) (causeCode_ne_zero c) }
  | answer i d => exact { h with }
  | write p f i d => exact { h with }
  | swap i d => exact { h with }
  | level l i d => exact { h with }
  | setup d hs =>
    have hout := h.unready_none_out (h.ready_after_setup hs)
    exact { h with
      latch_rests := by simp [State.respond]
      unready_none_out := fun _ => hout
      ready_after_setup := fun hn => by simp [State.respond] at hn }
  | start d hw hr => exact { h.start with }

/-- A completion keeps the invariant: the position's OUT and XFER change together, and the latch is low again. -/
theorem State.Inv.completed (h : s.Inv) (p : Pos) (f : Frame) : (s.completed p f).Inv := by
  obtain ⟨-, -, hrstate, hbus, hsetup, -, hill, hcause, -, -, hlatch, -⟩ := s.completed_same p f
  constructor
  case idle_none_out =>
    intro hr q
    rw [hrstate] at hr
    simp [State.completed_out, hr, h.idle_none_out hr q]
  case out_iff_payload =>
    intro q
    rw [State.completed_out, State.completed_xfer]
    by_cases hp : p = q
    · by_cases hok : s.rstate = .refreshing ∧ s.submitStatus = .ok <;> simp [hp, hok]
    · simp [hp, h.out_iff_payload q]
  case latch_rests => simp [hlatch]
  case unready_none_out =>
    intro hb q
    rw [hbus] at hb
    simp [State.completed_out, State.submitStatus_of_not_ready s hb, h.unready_none_out hb q]
  case ill_iff_cause => rw [hill, hcause]; exact h.ill_iff_cause
  case ready_after_setup => rw [hsetup, hbus]; exact h.ready_after_setup

theorem State.Inv.input {e : Input} (h : s.Inv) (ht : InputEffect s e t) : t.Inv := by
  cases ht with
  | command w _ hc => exact h.command hc
  | complete p f _ _ => exact h.completed p f
  | reset => exact .resetStep s

theorem State.Inv.step (h : s.Inv) (hstep : step s = .next t) : t.Inv := by
  obtain ⟨e, s0, hs, he, -⟩ | ⟨rfl, -, -⟩ := step_effect hstep
  · exact (h.sameBlock hs).input he
  · exact h

/-! ### Every step but reset is a row of recorded events -/

/-- `t` is `s` after the block recorded `e`: the event is appended to HIST, each flag of 10_state.md R31 that `e` stands
for is set, OUT and XFER follow an accepted or a finished transfer, and no transfer is accepted for a position that has
one or finished for a position that has none (42_refresh_scheduler.md R103, R114). -/
structure Records (s : State) (e : Event) (t : State) : Prop where
  hist : t.hist = s.hist ++ [e]
  not_reset : e ≠ .reset
  ill : t.ill = true ↔ s.ill = true ∨ ∃ w d, e = .cmd w true d
  submitErr : t.submitErr = true ↔ s.submitErr = true ∨ ∃ p f, e = .submit p f .fail
  setupDone : t.setupDone = true ↔ s.setupDone = true ∨ ∃ st, e = .busInit st
  busReady : t.busReady = true ↔ s.busReady = true ∨ e = .busInit .ok
  refreshing : t.rstate = .refreshing ↔ s.rstate = .refreshing ∨ ∃ p f st, e = .submit p f st
  out : ∀ p, t.out.get p = if e.accepts p then true else if e.finishes p then false else s.out.get p
  xfer : ∀ p, t.xfer.get p =
    if e.accepts p then lastAccepted p [e] else if e.finishes p then none else s.xfer.get p
  accepts_free : ∀ p, e.accepts p = true → s.out.get p = false
  finishes_held : ∀ p, e.finishes p = true → s.out.get p = true

/-- An event that stands for no flag and no transfer: an answered command or a latch edge. -/
def Event.silent : Event → Bool
  | .cmd _ err _ => !err
  | .latchHigh _ => true
  | .latchLow _ => true
  | .busInit _ => false
  | .submit _ _ _ => false
  | .complete _ _ => false
  | .reset => false

theorem emit_records (s : State) {e : Event} (he : e.silent = true) : Records s e (s.emit e) := by
  cases e with
  | cmd w err d =>
    obtain rfl : err = false := by simpa [Event.silent] using he
    constructor <;> simp [State.emit, Event.accepts, Event.finishes]
  | latchHigh p => constructor <;> simp [State.emit, Event.accepts, Event.finishes]
  | latchLow p => constructor <;> simp [State.emit, Event.accepts, Event.finishes]
  | busInit | submit | complete | reset => simp [Event.silent] at he

theorem illegal_records (s : State) (w : Word) (c : Cause) :
    Records s (.cmd w true (zext32 c.code)) (s.illegal w c) := by
  constructor <;> simp [State.illegal, Event.accepts, Event.finishes]

theorem setUp_records (st : BusStatus) (hs : s.setupDone = false) (hb : s.busReady = false) :
    Records s (.busInit st) (s.setUp st) := by
  constructor <;> simp [hs, hb, Event.accepts, Event.finishes]
  case busReady => cases st <;> simp [readyOf]

/-- The end of a transfer, as the completion step records it (42_refresh_scheduler.md R110). -/
theorem complete_records {p : Pos} (f : Frame) (ho : s.out.get p = true) :
    Records s (.complete p f) ((s.clearTransfer p).emit (.complete p f)) := by
  constructor <;> simp [Event.accepts, Event.finishes, vector_get_set, ho]

/-- A submission while refresh runs, for a position that has no transfer (42_refresh_scheduler.md R107). -/
theorem submit_records {p : Pos} (hr : s.rstate = .refreshing) (ho : s.out.get p = false) :
    Records s (.submit p (s.memRead s.active p) s.submitStatus) (s.submit p) where
  hist := s.submit_hist p
  not_reset := by simp
  ill := by simp
  submitErr := by simp [State.submit_submitErr]
  setupDone := by simp
  busReady := by simp
  refreshing := by simp [hr]
  out q := by cases hst : s.submitStatus <;> simp [State.submit_out, hst, Event.accepts, Event.finishes]
  xfer q := by
    rw [State.submit_xfer]
    by_cases hq : p = q <;> cases hst : s.submitStatus <;> simp [hq, Event.accepts, Event.finishes, lastAccepted]
  accepts_free q hq := by
    have hpq : p = q := by cases hst : s.submitStatus <;> simp_all [Event.accepts]
    exact hpq ▸ ho
  finishes_held q hq := by simp [Event.finishes] at hq

/-- A row of recorded events leads from one state to another. -/
def RecordsRow : State → State → Prop := Relation.ReflTransGen fun s t => ∃ e, Records s e t

theorem Records.row {e : Event} (h : Records s e t) : RecordsRow s t := .single ⟨e, h⟩

theorem RecordsRow.trans {u : State} (h : RecordsRow s t) (h' : RecordsRow t u) : RecordsRow s u :=
  Relation.ReflTransGen.trans h h'

/-- What each recorded event keeps, a row of them keeps. -/
theorem RecordsRow.keeps {P : State → Prop} (hP : ∀ s e t, Records s e t → P s → P t) (h : RecordsRow s t)
    (hs : P s) : P t := by
  induction h with
  | refl => exact hs
  | tail _ hlast ih => exact hlast.elim fun e he => hP _ e _ he ih

/-- Submissions for different positions, each without a transfer. -/
theorem foldl_submit_row {ps : List Pos} (hr : s.rstate = .refreshing) (hps : ps.Nodup)
    (ho : ∀ p ∈ ps, s.out.get p = false) : RecordsRow s (ps.foldl State.submit s) := by
  induction ps generalizing s with
  | nil => exact .refl
  | cons p ps ih =>
    obtain ⟨hp, hps⟩ := List.nodup_cons.mp hps
    have hfirst : RecordsRow s (s.submit p) := (submit_records hr (ho p (by simp))).row
    refine hfirst.trans (ih (by simpa using hr) hps fun q hq => ?_)
    have hpq : p ≠ q := fun h => hp (h ▸ hq)
    simpa [State.submit_out, hpq] using ho q (by simp [hq])

/-- The first DISPLAY: its first submission is the event that stands for RSTATE = REFRESHING. -/
theorem start_row (ho : ∀ p, s.out.get p = false) : RecordsRow s s.started.submitAll := by
  have hfirst : Records s _ (s.started.submit 0) :=
    { submit_records (s := s.started) (p := 0) rfl (ho 0) with refreshing := by simp }
  refine hfirst.row.trans (foldl_submit_row (ps := [1, 2, 3, 4, 5, 6, 7, 8]) (by simp) (by decide) fun q hq => ?_)
  have hq0 : (0 : Pos) ≠ q := by rintro rfl; revert hq; decide
  simp [State.submit_out, hq0, ho q]

theorem CommandEffect.row {w : Word} (h : CommandEffect w s t) (hidle : s.rstate = .idle → ∀ p, s.out.get p = false)
    (hready : s.setupDone = false → s.busReady = false) : RecordsRow s t := by
  cases h with
  | illegal v c => exact (illegal_records s v c).row
  | answer i d => exact (emit_records s rfl).row
  | write p f i d =>
    exact Records.row { emit_records (s.memWrite s.pending p f) (e := .cmd (encode i) false d) rfl with }
  | swap i d => exact Records.row { emit_records s.flipActive (e := .cmd (encode i) false d) rfl with }
  | level l i d => exact Records.row { emit_records (s.setLevel l) (e := .cmd (encode i) false d) rfl with }
  | setup d hs => exact (setUp_records _ hs (hready hs)).row.trans (emit_records _ rfl).row
  | start d _ hr => exact (start_row (hidle hr)).trans (emit_records _ rfl).row

theorem latchEdge_row (s : State) (l : PinLevel) {e : Event} (he : e.silent = true) :
    RecordsRow s ((s.setLatch l).emit e) := Records.row { emit_records (s.setLatch l) he with }

/-- A completion is recorded event by event: the end of the transfer, the latch edges, and the re-submission between
them while refresh runs (42_refresh_scheduler.md R110). -/
theorem completed_row {p : Pos} (f : Frame) (ho : s.out.get p = true) : RecordsRow s (s.completed p f) := by
  have hlatched : RecordsRow s (s.latched p f) := (complete_records f ho).row.trans (latchEdge_row _ _ rfl)
  cases hr : s.rstate with
  | idle =>
    rw [s.completed_of_idle p f hr]
    exact hlatched.trans (latchEdge_row _ _ rfl)
  | refreshing =>
    rw [s.completed_of_refreshing p f hr]
    have hfree : (s.latched p f).out.get p = false := by simp [State.latched]
    exact (hlatched.trans (submit_records (s := s.latched p f) hr hfree).row).trans (latchEdge_row _ _ rfl)

/-- A property of what the block shows is kept by every step when reset has it and each recorded event keeps it.
The two hypotheses on `s` are what makes its first DISPLAY and its SETUP record their events. -/
theorem step_keeps {P : State → Prop} (hsame : ∀ s t, s.sameBlock t → P s → P t) (hreset : P State.reset)
    (hrec : ∀ s e t, Records s e t → P s → P t) (hs : P s)
    (hidle : s.rstate = .idle → ∀ p, s.out.get p = false) (hready : s.setupDone = false → s.busReady = false)
    (h : step s = .next t) : P t := by
  obtain ⟨e, s0, hs0, he, -⟩ | ⟨rfl, -, -⟩ := step_effect h
  · obtain ⟨-, -, hrstate, hout, -, hbus, hsetup, -⟩ := hs0.elements
    have hP0 : P s0 := hsame s s0 hs0 hs
    cases he with
    | command w _ hc =>
      exact (hc.row (by rwa [hrstate, hout]) (by rwa [hsetup, hbus])).keeps hrec hP0
    | complete p f ho _ => exact (completed_row f ho).keeps hrec hP0
    | reset => exact hsame State.reset _ rfl hreset
  · exact hs

/-! ### The history and transfer invariants, event by event -/

theorem State.HistInv.sameBlock (h : s.HistInv) (hs : s.sameBlock t) : t.HistInv := hs ▸ { h with }

theorem State.TransferInv.sameBlock (h : s.TransferInv) (hs : s.sameBlock t) : t.TransferInv := hs ▸ { h with }

theorem State.HistInv.records {e : Event} (h : s.HistInv) (r : Records s e t) : t.HistInv where
  starts_reset := by simp [r.hist, h.starts_reset]
  one_reset := by simp [r.hist, h.one_reset, r.not_reset]
  ill_iff := by rw [r.ill, h.ill_iff, r.hist]; simp [exists_or, eq_comm]
  submitErr_iff := by rw [r.submitErr, h.submitErr_iff, r.hist]; simp [exists_or, eq_comm]
  setupDone_iff := by rw [r.setupDone, h.setupDone_iff, r.hist]; simp [exists_or, eq_comm]
  busReady_iff := by rw [r.busReady, h.busReady_iff, r.hist]; simp [eq_comm]
  refreshing_iff := by rw [r.refreshing, h.refreshing_iff, r.hist]; simp [exists_or, eq_comm]
  out_eq p := by rw [r.out, h.out_eq, r.hist, heldByBus_concat]

theorem acceptedCount_singleton (p : Pos) (e : Event) : acceptedCount p [e] = if e.accepts p then 1 else 0 :=
  List.countP_singleton

theorem finishedCount_singleton (p : Pos) (e : Event) : finishedCount p [e] = if e.finishes p then 1 else 0 :=
  List.countP_singleton

theorem lastAccepted_of_not_accepts {p : Pos} {e : Event} (h : e.accepts p = false) : lastAccepted p [e] = none := by
  cases e with
  | submit q f st => cases st <;> simp_all [Event.accepts, lastAccepted]
  | cmd | busInit | complete | latchHigh | latchLow | reset => rfl

theorem not_finishes_of_accepts {p : Pos} {e : Event} (h : e.accepts p = true) : e.finishes p = false := by
  cases e with
  | submit => rfl
  | cmd | busInit | complete | latchHigh | latchLow | reset => simp [Event.accepts] at h

theorem State.TransferInv.records {e : Event} (h : s.TransferInv) (r : Records s e t) : t.TransferInv where
  balance p := by
    have hbal := h.balance p
    rw [r.hist, acceptedCount_append, finishedCount_append, acceptedCount_singleton, finishedCount_singleton, r.out]
    cases hacc : e.accepts p with
    | true =>
      have hfree := r.accepts_free p hacc
      simpa [not_finishes_of_accepts hacc, hfree] using hbal
    | false =>
      cases hfin : e.finishes p with
      | true =>
        have hheld := r.finishes_held p hfin
        simpa [hheld] using hbal
      | false => simpa using hbal
  payload p f hf := by
    rw [r.hist, lastAccepted_append]
    rw [r.xfer] at hf
    cases hacc : e.accepts p with
    | true => simp [show lastAccepted p [e] = some f by simpa [hacc] using hf]
    | false =>
      cases hfin : e.finishes p with
      | true => simp [hacc, hfin] at hf
      | false => simpa [lastAccepted_of_not_accepts hacc] using h.payload p f (by simpa [hacc, hfin] using hf)

/-- A history in which no transfer for `p` was accepted leaves the bus with none. -/
theorem heldByBus_of_none_accepts {p : Pos} {h : List Event} (hnone : ∀ e ∈ h, e.accepts p = false) :
    heldByBus p h = false := by
  induction h using List.reverseRecOn with
  | nil => rfl
  | append_singleton h e ih =>
    have hh : heldByBus p h = false := ih fun x hx => hnone x (by simp [hx])
    simp [hnone e (by simp), hh]

/-- In IDLE no submission is in the history, so the bus holds no transfer. -/
theorem State.HistInv.idle_none_out (h : s.HistInv) (hr : s.rstate = .idle) (p : Pos) : s.out.get p = false := by
  have hnone : ∀ e ∈ s.hist, e.accepts p = false := by
    intro e he
    cases e with
    | submit q f st =>
      have := h.refreshing_iff.mpr ⟨q, f, st, he⟩
      simp [hr] at this
    | cmd | busInit | complete | latchHigh | latchLow | reset => rfl
  rw [h.out_eq]
  exact heldByBus_of_none_accepts hnone

theorem State.HistInv.ready_after_setup (h : s.HistInv) (hs : s.setupDone = false) : s.busReady = false := by
  by_contra hb
  have hin : Event.busInit .ok ∈ s.hist := h.busReady_iff.mp (by simpa using hb)
  simp [h.setupDone_iff.mpr ⟨.ok, hin⟩] at hs

/-! ### The obligations -/

/-- Settles O49: the invariant is checked against each effect a step can have. -/
theorem invariantKeptByEveryStep : Obligations.InvariantKeptByEveryStep := fun _ _ h hstep => h.step hstep

/-- Settles O50: each recorded event sets the flags it stands for, and a step but reset is a row of recorded events. -/
theorem historyTellsStatus : Obligations.HistoryTellsStatus := fun _ _ h hstep =>
  step_keeps (fun _ _ hs h => h.sameBlock hs) reset_histInv (fun _ _ _ r h => h.records r) h h.idle_none_out
    h.ready_after_setup hstep

/-- Settles O51: a recorded event accepts a transfer only for a free position and finishes only an outstanding one. -/
theorem transfersConserved : Obligations.TransfersConserved := fun _ _ hinv h hstep =>
  step_keeps (fun _ _ hs h => h.sameBlock hs) reset_transferInv (fun _ _ _ r h => h.records r) h hinv.idle_none_out
    hinv.ready_after_setup hstep

/-- Settles O42: of all the effects of a command only the first DISPLAY's writes OUT or XFER, and it needs IDLE. -/
theorem commandsKeepTransfersInFlight : Obligations.CommandsKeepTransfersInFlight := by
  intro s t w h hno
  cases commandStep_effect h with
  | illegal | answer | write | swap | level | setup => exact ⟨rfl, rfl⟩
  | start d hw hr => simp [hw, hr] at hno

/-- Settles O1: the store, OUT and XFER read at every place, the other elements by their definition. -/
theorem resetGivesTableValues : Obligations.ResetGivesTableValues :=
  ⟨reset_memRead, rfl, rfl, reset_out, reset_xfer, rfl, rfl, rfl, rfl, rfl, rfl, rfl, rfl, rfl, rfl⟩

/-- Settles O48, invariant by invariant. -/
theorem invariantsHoldAtReset : Obligations.InvariantsHoldAtReset :=
  ⟨reset_inv, reset_histInv, reset_transferInv, reset_stallInv⟩

end Sys2Proof.Machine

/-! Proofs of the family 20_memory.md: which bank the refresh loop reads and which bank the commands write. -/

namespace Sys2Proof.Machine

variable {s t : State}

/-! ### Bank ownership (20_memory.md R51, R57) -/

/-- A write into the pending bank is not seen in the active one. -/
theorem memWrite_pending_memRead_active (p q : Pos) (f : Frame) :
    (s.memWrite s.pending p f).memRead s.active q = s.memRead s.active q := by
  rw [State.memRead_memWrite, if_neg fun h => pending_ne_active s h.1]

/-- From `s` to `t` the bank that was active reads as before, and every submission recorded on the way carries the frame
of the bank active in `t`. -/
structure BanksOwned (s t : State) : Prop where
  active_kept : ∀ p, t.memRead s.active p = s.memRead s.active p
  submits_active : ∃ ev, t.hist = s.hist ++ ev ∧ ∀ p f st, .submit p f st ∈ ev → f = t.memRead t.active p

/-- Without a submission only the bank that was active matters. -/
theorem BanksOwned.of_no_submit {ev : List Event} (hread : ∀ p, t.memRead s.active p = s.memRead s.active p)
    (hhist : t.hist = s.hist ++ ev) (hev : ∀ e ∈ ev, e.isSubmit = false) : BanksOwned s t where
  active_kept := hread
  submits_active := ⟨ev, hhist, fun _ _ _ he => absurd (hev _ he) (by simp [Event.isSubmit])⟩

/-- Where the store is left alone, the frames submitted are those read in the store at the start. -/
theorem BanksOwned.of_same_bank {ev : List Event} (hbank : t.bank = s.bank) (hhist : t.hist = s.hist ++ ev)
    (hev : ∀ p f st, .submit p f st ∈ ev → f = s.memRead t.active p) : BanksOwned s t := by
  have hread : t.memRead = s.memRead := State.memRead_congr hbank
  exact ⟨fun p => by rw [hread], ev, hhist, fun p f st he => by rw [hread]; exact hev p f st he⟩

/-- Of the commands only the writes change the store, in the pending bank, and only the first DISPLAY submits, after its
swap. -/
theorem CommandEffect.banksOwned {w : Word} (h : CommandEffect w s t) : BanksOwned s t := by
  cases h with
  | illegal v c => exact .of_no_submit (fun _ => rfl) rfl (by simp [Event.isSubmit])
  | answer i d => exact .of_no_submit (fun _ => rfl) rfl (by simp [Event.isSubmit])
  | write p f i d =>
    exact .of_no_submit (fun q => memWrite_pending_memRead_active p q f) rfl (by simp [Event.isSubmit])
  | swap i d => exact .of_no_submit (fun _ => rfl) rfl (by simp [Event.isSubmit])
  | level l i d => exact .of_no_submit (fun _ => rfl) rfl (by simp [Event.isSubmit])
  | setup d hs =>
    exact .of_no_submit (ev := [.busInit (s.drawAt 0), .cmd (encode .setup) false d]) (fun _ => rfl) (by simp)
      (by simp [Event.isSubmit])
  | start d hw hr =>
    refine .of_same_bank (by simp) (by rw [State.respond_hist, State.submitAll_hist, List.append_assoc]; rfl) ?_
    simp

/-- The one submission of a completion, made while refresh runs, is of the active bank's frame. -/
theorem completed_banksOwned (p : Pos) (f : Frame) : BanksOwned s (s.completed p f) := by
  obtain ⟨hbank, hactive, -⟩ := s.completed_same p f
  cases hr : s.rstate with
  | idle => exact .of_same_bank hbank (s.completed_hist_idle p f hr) (by simp)
  | refreshing => exact .of_same_bank hbank (s.completed_hist p f hr) (by simp +contextual [hactive])

theorem InputEffect.banksOwned {e : Input} (h : InputEffect s e t) (hne : e ≠ .reset) : BanksOwned s t := by
  cases h with
  | command w _ hc => exact hc.banksOwned
  | complete p f _ _ => exact completed_banksOwned p f
  | reset => exact absurd rfl hne

/-- Only the block's own elements matter at the start. -/
theorem BanksOwned.of_sameBlock {s0 : State} (hs : s.sameBlock s0) (h : BanksOwned s0 t) : BanksOwned s t := by
  obtain ⟨hbank, hactive, -, -, -, -, -, -, -, -, -, -, -, -, hhist⟩ := hs.elements
  exact ⟨State.memRead_congr hbank ▸ hactive ▸ h.active_kept, hhist ▸ h.submits_active⟩

theorem step_banksOwned (hne : s.inputs.head? ≠ some .reset) (hstep : step s = .next t) : BanksOwned s t := by
  obtain ⟨e, s0, hs, he, hreset⟩ | ⟨rfl, -, -⟩ := step_effect hstep
  · exact .of_sameBlock hs (he.banksOwned fun h => hne (hreset h))
  · exact .of_no_submit (ev := []) (fun _ => rfl) (by simp) (by simp)

/-! ### The obligation -/

/-- Settles O28: commands write only the pending bank, and submissions read only the active one. -/
theorem bankOwnership : Obligations.BankOwnership := by
  intro s t hne hstep
  obtain ⟨hkept, hsubmits⟩ := step_banksOwned hne hstep
  exact ⟨hkept, hsubmits⟩

end Sys2Proof.Machine

/-! Proofs of the family 30_encoding.md, decoder and encoder: the checks of decode, one equation each, and the two
directions of the round trip. -/

namespace Sys2Proof

/-! ### The checks of decode (30_encoding.md R67), one equation a branch -/

section
variable {w : Word} {o : Op}

theorem decode_of_no_row (h : opOf (opField w) = none) : decode w = .error .reservedOpcode := by simp [decode, h]

theorem decode_of_mismatch (ho : opField w = o.code) (h : w &&& o.mask ≠ o.pattern) :
    decode w = .error .reservedField := by simp [decode, ho, h]

theorem decode_of_bad_pos (ho : opField w = o.code) (h : w &&& o.mask = o.pattern)
    (hpos : (o.format.hasPos && !posInRange (posField w)) = true) : decode w = .error .posRange := by
  simp only [decode, ho, opOf_code, h, hpos, ne_eq, not_true_eq_false, if_false, if_true]

theorem decode_of_checks (ho : opField w = o.code) (h : w &&& o.mask = o.pattern)
    (hpos : (o.format.hasPos && !posInRange (posField w)) = false) : decode w = .ok (o.read w) :=
  (decode_eq_ok_iff w _).mpr ⟨o, ho ▸ opOf_code o, h, hpos, rfl⟩

/-- Every mask holds the four opcode bits, so a word that matches a row carries the row's opcode
(30_encoding.md R59, R66). -/
theorem opField_of_matches (h : w &&& o.mask = o.pattern) : opField w = o.code := by
  have hmask : opField o.mask = BitVec.allOnes 4 := by cases o <;> rfl
  have hpattern : opField o.pattern = o.code := by cases o <;> rfl
  calc opField w = opField w &&& opField o.mask := by rw [hmask, BitVec.and_allOnes]
    _ = opField (w &&& o.mask) := BitVec.extractLsb'_and.symm
    _ = o.code := by rw [h, hpattern]

end

/-- No two rows have one opcode (30_encoding.md R66). -/
theorem Op.code_inj {o o' : Op} (h : o.code = o'.code) : o = o' := by
  simpa using congrArg opOf h

/-- A row of the opcode map as `Obligations.DecodeChecksInOrder` writes it out: opcode, mask, match, has POS. -/
def Op.row (o : Op) : Nat × Word × Word × Bool := (o.code.toNat, o.mask, o.pattern, o.format.hasPos)

/-! ### The command a row reads -/

@[simp] theorem Op.op_read (o : Op) (w : Word) : (o.read w).op = o := by cases o <;> rfl

/-- The position check of decode is the well-formedness of the command read. -/
theorem Op.wellFormed_read (o : Op) (w : Word) :
    (o.read w).wellFormed = !(o.format.hasPos && !posInRange (posField w)) := by
  cases o <;> simp [Op.read, Instr.wellFormed, Op.format, Format.hasPos]

/-- The row of a command reads the command back from its word: no operand bit is dropped (30_encoding.md R60 to R65). -/
theorem read_encode (i : Instr) : i.op.read (encode i) = i := by
  cases i <;> simp [Instr.op, Op.read, encode]

theorem decode_encode {i : Instr} (h : i.wellFormed = true) : decode (encode i) = .ok i := by
  have hpos := i.op.wellFormed_read (encode i)
  rw [read_encode, h] at hpos
  rw [decode_of_checks (opField_encode i) (encode_matches i) ((Bool.not_eq_true' _).mp hpos.symm),
    read_encode]

/-! ### A word is its row's match word and its operand bits -/

/-- A field taken out of a word and put back is the word under the field's mask. -/
theorem zext32_extract_shift (w : Word) (k n : Nat) :
    zext32 (w.extractLsb' k n) <<< k = w &&& (zext32 (BitVec.allOnes n) <<< k) := by
  ext i hi
  by_cases hk : i < k
  · simp [zext32, hk]
  · have hik : k + (i - k) = i := by omega
    by_cases hn : i - k < n <;> simp [zext32, hk, hn, hik, hi]

theorem placePos_posField (w : Word) : placePos (posField w) = w &&& 0x0F000000 := zext32_extract_shift w 24 4

theorem place_dotField (w : Word) : zext32 (BitVec.ofBool (dotField w)) <<< 8 = w &&& 0x00000100 := by
  have hdot : BitVec.ofBool (dotField w) = w.extractLsb' 8 1 := by
    ext i hi
    obtain rfl : i = 0 := by omega
    simp [dotField]
  rw [hdot]; exact zext32_extract_shift w 8 1

theorem zext32_extract (w : Word) (n : Nat) : zext32 (w.extractLsb' 0 n) = w &&& zext32 (BitVec.allOnes n) := by
  simpa using zext32_extract_shift w 0 n

theorem zext32_charField (w : Word) : zext32 (charField w) = w &&& 0x000000FF := zext32_extract w 8

theorem zext32_frameField (w : Word) : zext32 (frameField w) = w &&& 0x00FFFFFF := zext32_extract w 24

theorem zext32_bankField (w : Word) : zext32 (bankField w) = w &&& 0x00000001 := zext32_extract w 1

theorem zext32_levelField (w : Word) : zext32 (levelField w) = w &&& 0x0000000F := zext32_extract w 4

/-- The encoder puts every bit outside the row's mask back in its place. -/
theorem encode_read (o : Op) (w : Word) : encode (o.read w) = o.pattern ||| (w &&& ~~~o.mask) := by
  cases o <;>
    simp only [Op.read, encode, wordN, wordC, wordF, wordR, wordI, placePos_posField, place_dotField, zext32_charField,
      zext32_frameField, zext32_bankField, zext32_levelField, BitVec.or_assoc, ← BitVec.and_or_distrib_left] <;>
    simp [Op.mask]

/-- A word that matches a row is the encoding of the command the row reads from it (30_encoding.md R66, R71). -/
theorem encode_read_of_matches {o : Op} {w : Word} (h : w &&& o.mask = o.pattern) : encode (o.read w) = w := by
  rw [encode_read, ← h, ← BitVec.and_or_distrib_left, BitVec.or_not_self, BitVec.and_allOnes]

theorem encode_of_decode {w : Word} {i : Instr} (h : decode w = .ok i) : i.wellFormed = true ∧ encode i = w := by
  obtain ⟨o, -, hmatch, hpos, rfl⟩ := (decode_eq_ok_iff w i).mp h
  exact ⟨by rw [o.wellFormed_read, hpos]; rfl, encode_read_of_matches hmatch⟩

/-! ### The obligations -/

/-- Settles O3: an encoded command passes the checks of its row, and the row reads every operand back. -/
theorem decodeEncodeAgree : Obligations.DecodeEncodeAgree := fun _ h => decode_encode h

/-- Settles O4: the word is its bits under the row's mask, which the match fixes, and the operand bits outside it. -/
theorem encodeDecodeAgree : Obligations.EncodeDecodeAgree := fun _ _ h => encode_of_decode h

/-- Settles O5: a word that matches two rows carries both opcodes. -/
theorem opcodeRowsDisjoint : Obligations.OpcodeRowsDisjoint := fun _ _ _ h h' =>
  Op.code_inj ((opField_of_matches h).symm.trans (opField_of_matches h'))

/-- Settles O6: the rows written out are the model's nine, and each check is its branch of decode. -/
theorem decodeChecksInOrder : Obligations.DecodeChecksInOrder := by
  intro w
  refine ⟨fun h => decode_of_no_row ((opOf_eq_none_iff _).mpr h), ?_⟩
  change ∀ row ∈ [Op.setup, .setDigit, .writeFrame, .swap, .display, .setIntensity, .encodeChar, .readFrame,
    .readStatus].map Op.row, _
  rw [List.forall_mem_map]
  intro o _ hop
  have ho : opField w = o.code := BitVec.eq_of_toNat_eq hop
  refine ⟨decode_of_mismatch ho, fun hmatch hhas hpos => ?_, fun hmatch hpos => ?_⟩
  · have hbad : posInRange (posField w) = false := decide_eq_false (Nat.not_lt.mpr hpos)
    exact decode_of_bad_pos ho hmatch (by simpa [hbad, Op.row] using hhas)
  · refine ⟨o.read w, decode_of_checks ho hmatch ?_⟩
    cases hhas : o.format.hasPos with
    | false => rfl
    | true => simp [(posInRange_iff (posField w)).mpr (hpos hhas)]

/-- Settles O7: twelve closed words, decoded. -/
theorem decodeWrittenWords : Obligations.DecodeWrittenWords := by
  unfold Obligations.DecodeWrittenWords
  decide

end Sys2Proof

/-! Proofs of the family 30_encoding.md, the machine: the command port, the one answer of every command, and the
position of an encoded frame. -/

namespace Sys2Proof.Machine

/-! ### The command port (30_encoding.md R58, R67) -/

section
variable {s : State} {w : Word} {i : Instr}

theorem step_of_command {rest : List Input} (h : s.inputs = .command w :: rest) :
    step s = commandStep w { s with inputs := rest } := by simp [step, takeStep, h, inputStep]

theorem commandStep_of_ok (h : decode w = .ok i) : commandStep w s = exec i s := by simp [commandStep, h]

theorem commandStep_of_error {c : Cause} (h : decode w = .error c) : commandStep w s = .next (s.illegal w c) := by
  simp [commandStep, h]

/-- A command word is its own word of the opcode table (30_encoding.md R72). -/
theorem tableWord_toNat (w : Word) : tableWord 32 w.toNat = w := by
  simp [tableWord, Nat.mod_eq_of_lt w.isLt]

theorem step_offer : step (s.offer w) = commandStep w s := step_of_command rfl

/-! ### One answer a command (30_encoding.md R75) -/

/-- The history ends in the answer, so the response is read off it. -/
theorem response_of_hist {h : List Event} {err : Bool} {d : Word} (hs : s.hist = h ++ [.cmd w err d]) :
    s.response = some (err, d) := by simp [State.response, hs]

end

/-- From `s` to `u` a command has done its work and not yet answered: no `Cmd` event was added, and no illegal command
was taken. -/
structure Unanswered (s u : State) : Prop where
  hist : ∃ before, u.hist = s.hist ++ before ∧ ∀ e ∈ before, e.isCmd = false
  ill : u.ill = s.ill
  lastCause : u.lastCause = s.lastCause

section
variable {s u : State}

theorem Unanswered.of_same_hist (hhist : u.hist = s.hist) (hill : u.ill = s.ill) (hcause : u.lastCause = s.lastCause) :
    Unanswered s u := ⟨⟨[], by simp [hhist], by simp⟩, hill, hcause⟩

/-- DISPLAY's swap records nothing; from IDLE nine submissions are recorded. -/
theorem trigger_unanswered (s : State) : Unanswered s s.trigger := by
  cases hr : s.rstate with
  | idle =>
    rw [s.trigger_of_idle hr]
    exact ⟨⟨_, s.started.submitAll_hist, by simp [Event.isCmd]⟩, by simp, by simp⟩
  | refreshing =>
    rw [s.trigger_of_refreshing hr]
    exact .of_same_hist rfl rfl rfl

/-- A command whose position is in range answers after its work at that position. -/
theorem withPos_answers {i : Instr} {pos : BitVec 4} {f : Pos → State} {d : Pos → Word} (h : posInRange pos = true)
    (hf : ∀ p, Unanswered s (f p)) :
    ∃ u e, (.next (s.withPos i pos fun p => (f p).respond i (d p)) : Result) = .next (u.respond i e) ∧
      Unanswered s u := by
  rw [s.withPos_of_some (posOf_of_lt ((posInRange_iff pos).mp h))]
  exact ⟨_, _, rfl, hf _⟩

theorem exec_repeated_setup (h : s.setupDone = true) :
    exec .setup s = .next (s.illegal (encode .setup) .repeatedSetup) := by simp [exec, execSetup, h]

/-- Every well-formed command but a repeated SETUP does its work and then answers without an error. -/
theorem exec_answers {i : Instr} (hwf : i.wellFormed = true) (hsetup : i = .setup → s.setupDone = false) :
    ∃ u d, exec i s = .next (u.respond i d) ∧ Unanswered s u := by
  cases i with
  | setup =>
    exact ⟨s.setUp (s.drawAt 0), _, congrArg Host.Outcome.next (if_neg (by simp [hsetup rfl])),
      ⟨⟨[.busInit (s.drawAt 0)], rfl, by simp [Event.isCmd]⟩, rfl, rfl⟩⟩
  | setDigit pos char dot => exact withPos_answers hwf fun _ => .of_same_hist rfl rfl rfl
  | writeFrame pos frame => exact withPos_answers hwf fun _ => .of_same_hist rfl rfl rfl
  | swap => exact ⟨_, _, rfl, .of_same_hist rfl rfl rfl⟩
  | display => exact ⟨_, _, rfl, trigger_unanswered s⟩
  | setIntensity level => exact ⟨_, _, rfl, .of_same_hist rfl rfl rfl⟩
  | encodeChar pos char dot => exact withPos_answers hwf fun _ => .of_same_hist rfl rfl rfl
  | readFrame pos bank => exact withPos_answers hwf fun _ => .of_same_hist rfl rfl rfl
  | readStatus => exact ⟨_, _, rfl, .of_same_hist rfl rfl rfl⟩

end

/-- The word is illegal in `s`: it does not decode, or it is a repeated SETUP (30_encoding.md R67). -/
def IllegalAt (w : Word) (s : State) : Prop :=
  (∃ c, decode w = .error c) ∨ (w = 0x10000000 ∧ s.setupDone = true)

/-- What a command word does, by legality: an illegal one takes its exception, a legal one does its work and answers
(60_exceptions.md R140, 30_encoding.md R75). -/
theorem commandStep_answers (w : Word) (s : State) :
    (∃ c, IllegalAt w s ∧ commandStep w s = .next (s.illegal w c)) ∨
    (∃ i u d, ¬IllegalAt w s ∧ encode i = w ∧ commandStep w s = .next (u.respond i d) ∧ Unanswered s u) := by
  cases hd : decode w with
  | error c => exact .inl ⟨c, .inl ⟨c, hd⟩, commandStep_of_error hd⟩
  | ok i =>
    obtain ⟨hwf, hw⟩ := encode_of_decode hd
    rw [commandStep_of_ok hd]
    by_cases hrep : i = .setup ∧ s.setupDone = true
    · obtain ⟨rfl, hdone⟩ := hrep
      exact .inl ⟨_, .inr ⟨hw.symm, hdone⟩, hw ▸ exec_repeated_setup hdone⟩
    · obtain ⟨u, d, hexec, hu⟩ := exec_answers hwf fun hi => by simpa [hi] using hrep
      refine .inr ⟨i, u, d, ?_, hw, hexec, hu⟩
      rintro (⟨c, hc⟩ | ⟨rfl, hdone⟩)
      · simp [hd] at hc
      · have hi : Except.ok i = Except.ok Instr.setup := hd.symm.trans (decode_encode (i := .setup) rfl)
        exact hrep ⟨Except.ok.inj hi, hdone⟩

/-! ### The frame encoder's fields (30_encoding.md R77, R78, 40_frame_encoder.md R84) -/

/-- `decodeFrame` reads back the two fields `Encode` places, and a low byte of 0: the three are bytes apart. -/
theorem decodeFrame_encodeFrameWith (table : Byte → Byte) (dotBit : Fin 8) (p : Pos) (c : Byte) (d : Bool) :
    decodeFrame (encodeFrameWith table dotBit p c d) = ⟨segmentOf table dotBit c d, selectOf p, 0⟩ := by
  unfold decodeFrame encodeFrameWith
  generalize segmentOf table dotBit c d = seg
  generalize selectOf p = sel
  congr 1 <;> ext i hi <;>
    simp [hi, show i < 24 by omega, show i < 16 by omega, show 8 + i < 24 by omega, show 8 + i < 16 by omega,
      show 16 + i < 24 by omega, BitVec.getLsbD_of_ge sel (16 + i - 8) (by omega)]

/-- The position read off an encoded frame is the one whose select field it is, for positions 0 to 7. -/
theorem selectedPosition_encodeFrame (p : Pos) (c : Byte) (d : Bool) :
    selectedPosition (encodeFrame p c d) = if p.val < 8 then some p else none := by
  unfold selectedPosition encodeFrame
  simp only [decodeFrame_encodeFrameWith]
  revert p; decide

/-! ### The obligations -/

/-- Settles O12: the history of an illegal command and of an answered one, with what each says of ILL and LAST_CAUSE. -/
theorem eachCommandAnswersOnce : Obligations.EachCommandAnswersOnce := by
  intro s w rest t hin hstep
  rw [step_of_command hin] at hstep
  obtain ⟨c, hill, h⟩ | ⟨i, u, d, hlegal, rfl, h, ⟨before, hhist, hbefore⟩, hu, hc⟩ :=
    commandStep_answers w { s with inputs := rest }
  · obtain rfl := Host.Outcome.next.inj (h.symm.trans hstep)
    exact ⟨true, zext32 c.code, [], by simp, by simp, response_of_hist rfl, iff_of_true rfl hill, fun _ => ⟨rfl, rfl⟩,
      by simp⟩
  · obtain rfl := Host.Outcome.next.inj (h.symm.trans hstep)
    exact ⟨false, d, before, by simp [hhist], hbefore, response_of_hist rfl, iff_of_false nofun hlegal, by simp,
      fun _ => ⟨hu, hc⟩⟩

/-- Settles O18: of the fields of an encoded frame only the select field tells a position. -/
theorem encodedFramePosition : Obligations.EncodedFramePosition := by
  intro p c d
  have hfields := decodeFrame_encodeFrameWith font Config.dotBit p c d
  refine ⟨congrArg FrameFields.low hfields, fun hp => by simp [selectedPosition_encodeFrame, hp], fun hp => ⟨?_, ?_⟩⟩
  · obtain rfl : p = 8 := Fin.ext hp
    exact congrArg FrameFields.sel hfields
  · simp [selectedPosition_encodeFrame, hp]

/-- Settles O8: the step takes the word off the port, and the word decodes. -/
theorem stepRunsDecodedCommand : Obligations.StepRunsDecodedCommand := fun _ _ _ _ hin hd =>
  (step_of_command hin).trans (commandStep_of_ok hd)

/-- Settles O9: the word presented is the encoding, which decodes to the command. -/
theorem presentedWordRuns : Obligations.PresentedWordRuns := by
  intro s i hwf
  rw [State.withFetchWord, tableWord_toNat, step_offer, commandStep_of_ok (decode_encode hwf)]

/-- Settles O11: an illegal word leaves the exception's state, a legal one the state that answered. -/
theorem everyCommandWordCompletes : Obligations.EveryCommandWordCompletes := by
  intro w s
  obtain ⟨_, _, h⟩ | ⟨_, _, _, _, _, h, _⟩ := commandStep_answers w s
  · exact ⟨_, h⟩
  · exact ⟨_, h⟩

/-- Settles O24: none of the four commands finds a position, and `withPos` takes the exception. -/
theorem positionOutOfRangeTakesException : Obligations.PositionOutOfRangeTakesException := by
  intro s pos h
  have hnone (i : Instr) (f : Pos → State) :
      Host.Outcome.next (s.withPos i pos f) = (Host.Outcome.next (s.illegal (encode i) .posRange) : Result) := by
    rw [s.withPos_of_none (posOf_of_not_lt h)]
  exact ⟨fun _ _ => hnone _ _, fun _ => hnone _ _, fun _ _ => hnone _ _, fun _ => hnone _ _⟩

/-- Settles O60: thirteen closed lines, assembled. -/
theorem assemblerLinesWrittenOut : Obligations.AssemblerLinesWrittenOut := by
  unfold Obligations.AssemblerLinesWrittenOut
  decide

end Sys2Proof.Machine

/-! Proofs of the family 40_frame_encoder.md: the fields of an encoded frame, the legal font tables, and the rules of
ENCODE and SET_DIGIT. -/

namespace Sys2Proof.Machine

/-! ### The fields of an encoded frame (40_frame_encoder.md R84) -/

section
variable (table : Byte → Byte) (dotBit : Fin 8) (p : Pos) (c : Byte) (d : Bool)

theorem encodeFrameWith_seg :
    (encodeFrameWith table dotBit p c d).extractLsb' 16 8 = segmentOf table dotBit c d :=
  congrArg FrameFields.seg (decodeFrame_encodeFrameWith table dotBit p c d)

theorem encodeFrameWith_sel : (encodeFrameWith table dotBit p c d).extractLsb' 8 8 = selectOf p :=
  congrArg FrameFields.sel (decodeFrame_encodeFrameWith table dotBit p c d)

theorem encodeFrameWith_low : (encodeFrameWith table dotBit p c d).extractLsb' 0 8 = 0 :=
  congrArg FrameFields.low (decodeFrame_encodeFrameWith table dotBit p c d)

/-- The segment byte's bits stand from bit 16 of the frame. -/
theorem encodeFrameWith_getLsbD_seg (i : Fin 8) :
    (encodeFrameWith table dotBit p c d).getLsbD (16 + i) = (segmentOf table dotBit c d).getLsbD i := by
  simp [← encodeFrameWith_seg table dotBit p c d]

end

/-! ### The select field (40_frame_encoder.md R88, R89) -/

theorem selectOf_of_lt {p : Pos} (h : p.val < 8) : selectOf p = 1#8 <<< p.val := by
  revert p; decide

theorem selectOf_of_eq_eight {p : Pos} (h : p.val = 8) : selectOf p = 0x00 := by
  obtain rfl : p = 8 := Fin.ext h
  rfl

/-! ### The dot bit and the legal font tables (40_frame_encoder.md R82, R83) -/

theorem dotSegment_getElem (dotBit : Fin 8) {i : Nat} (hi : i < 8) :
    (dotSegment dotBit)[i] = decide (i = dotBit.val) := by
  revert dotBit i; decide

/-- The dot flag adds the dot segment to the undotted segment byte. -/
theorem segmentOf_dot (table : Byte → Byte) (dotBit : Fin 8) (c : Byte) :
    segmentOf table dotBit c true = segmentOf table dotBit c false ||| dotSegment dotBit := rfl

/-- The dot segment of a frame is the frame's bit `16 + DOT_BIT`. -/
theorem dotSegment_in_frame (dotBit : Fin 8) :
    (dotSegment dotBit).setWidth 24 <<< 16 = 1#24 <<< (16 + dotBit.val) := by
  revert dotBit; decide

theorem clear_dotSegment_unlit (x : Byte) (dotBit : Fin 8) :
    (x &&& ~~~(dotSegment dotBit)).getLsbD dotBit = false := by
  simp [dotSegment_getElem]

/-- Clearing the dot bit of a pattern that does not light it changes nothing. -/
theorem clear_dotSegment_of_unlit {x : Byte} {dotBit : Fin 8} (h : x.getLsbD dotBit = false) :
    x &&& ~~~(dotSegment dotBit) = x := by
  ext i hi
  by_cases hdot : i = dotBit.val
  · subst hdot
    simpa [dotSegment_getElem] using h
  · simp [dotSegment_getElem, hdot]

theorem font_of_mapped {c : Byte} (h : mapped c = true) :
    font c = Config.rawFont c &&& ~~~(dotSegment Config.dotBit) := if_pos h

theorem font_of_unmapped {c : Byte} (h : mapped c = false) : font c = 0x00 := if_neg (by simp [h])

/-- The block's font meets both limits, whatever the open table holds. -/
theorem font_legal : FontLegal font Config.dotBit where
  unmapped_blank _ := font_of_unmapped
  dot_unlit c := by
    cases h : mapped c with
    | true => rw [font_of_mapped h]; exact clear_dotSegment_unlit _ _
    | false => simp [font_of_unmapped h]

/-- Every code of `MAPPED` is an ASCII code (00_scope.md R10). -/
theorem mapped_of_not_ascii {c : Byte} (h : 0x80 ≤ c.toNat) : mapped c = false := by
  revert c; decide

/-! ### The checks of a row, as the rules of single commands state them (30_encoding.md R67, 60_exceptions.md R140) -/

/-- A word that matches a row whose position, if any, is in range decodes to the command the row reads. -/
theorem decode_of_matches {o : Op} {w : Word} (h : w &&& o.mask = o.pattern) (hpos : (posField w).toNat < 9) :
    decode w = .ok (o.read w) :=
  decode_of_checks (opField_of_matches h) h (by simp [(posInRange_iff (posField w)).mpr hpos])

theorem reservedFieldRule (o : Op) : ReservedFieldRule o.code o.mask o.pattern := fun _ _ hop hw =>
  commandStep_of_error (decode_of_mismatch hop hw)

theorem posRangeRule {o : Op} (hhas : o.format.hasPos = true) : PosRangeRule o.code o.mask o.pattern := by
  intro w s hop hw hpos
  have hbad : posInRange (posField w) = false := decide_eq_false (Nat.not_lt.mpr hpos)
  exact commandStep_of_error (decode_of_bad_pos hop hw (by simp [hhas, hbad]))

/-! ### The two commands (40_frame_encoder.md R85, R86) -/

section
variable (s : State) {pos : BitVec 4} (char : Byte) (dot : Bool) (h : pos.toNat < 9)

theorem exec_encodeChar :
    exec (.encodeChar pos char dot) s =
      .next (s.respond (.encodeChar pos char dot) (zext32 (encodeFrame ⟨pos.toNat, h⟩ char dot))) :=
  congrArg Host.Outcome.next (s.withPos_of_some (posOf_of_lt h) _)

theorem exec_setDigit :
    exec (.setDigit pos char dot) s =
      .next ((s.memWrite s.pending ⟨pos.toNat, h⟩ (encodeFrame ⟨pos.toNat, h⟩ char dot)).respond
        (.setDigit pos char dot) (zext32 (encodeFrame ⟨pos.toNat, h⟩ char dot))) :=
  congrArg Host.Outcome.next (s.withPos_of_some (posOf_of_lt h) _)

end

/-- A command that answers after a write into the pending bank: the location written, every other location, and every
other element (40_frame_encoder.md R86). -/
theorem pendingWrite_frame {s t : State} {p : Pos} {f : Frame} {i : Instr} {d : Word}
    (ht : t = (s.memWrite s.pending p f).respond i d) :
    t.memRead (1 - s.active) p = f ∧
      (∀ b q, ¬(b = 1 - s.active ∧ q = p) → t.memRead b q = s.memRead b q) ∧
      t = { s with bank := t.bank, hist := s.hist ++ [.cmd (encode i) false d] } := by
  have hread (b : BitVec 1) (q : Pos) :
      t.memRead b q = if 1 - s.active = b ∧ p = q then f else s.memRead b q := by
    rw [ht]; exact s.memRead_memWrite (1 - s.active) b p q f
  refine ⟨by simp [hread], fun b q hother => ?_, by rw [ht]; rfl⟩
  rw [hread, if_neg fun hsame => hother ⟨hsame.1.symm, hsame.2.symm⟩]

/-! ### The obligations -/

/-- Settles O13: the three fields that `decodeFrame` reads back. -/
theorem encodedFrameFields : Obligations.EncodedFrameFields := fun table dotBit p c d =>
  ⟨encodeFrameWith_seg table dotBit p c d,
    (encodeFrameWith_sel table dotBit p c d).trans (BitVec.setWidth_eq_extractLsb' (by decide)),
    encodeFrameWith_low table dotBit p c d⟩

/-- Settles O14: the select field is a function of the position alone. -/
theorem selectFieldOneHotOrZero : Obligations.SelectFieldOneHotOrZero := by
  intro table dotBit p c d
  have hsel := encodeFrameWith_sel table dotBit p
  exact ⟨fun hp => (hsel c d).trans (selectOf_of_lt hp), fun hp => (hsel c d).trans (selectOf_of_eq_eight hp),
    fun c' d' => (hsel c d).trans (hsel c' d').symm⟩

/-- Settles O15: the dot segment moves with the segment byte to bit `16 + DOT_BIT`, which no base pattern lights. -/
theorem dotFlagAddsDotBit : Obligations.DotFlagAddsDotBit := by
  intro table dotBit hlegal p c
  constructor
  · rw [encodeFrameWith, encodeFrameWith, segmentOf_dot, BitVec.setWidth_or, BitVec.shiftLeft_or_distrib,
      dotSegment_in_frame, BitVec.or_assoc, BitVec.or_comm (1#24 <<< _), ← BitVec.or_assoc]
  · rw [encodeFrameWith_getLsbD_seg]
    exact hlegal.dot_unlit c

/-- Settles O16: a blank base pattern leaves the select field, and with the dot flag the dot segment. -/
theorem unmappedCharacterBlank : Obligations.UnmappedCharacterBlank := by
  intro table dotBit hlegal p c hc
  have hblank : segmentOf table dotBit c false = 0x00 := hlegal.unmapped_blank c hc
  constructor
  · have hseg : (segmentOf table dotBit c false).setWidth 24 <<< 16 = 0#24 := by rw [hblank]; rfl
    rw [encodeFrameWith_sel, encodeFrameWith, hseg, BitVec.zero_or]
  · rw [encodeFrameWith_seg, segmentOf_dot, hblank]
    exact BitVec.zero_or

/-- Settles O17: the mask that makes the block's font legal changes no table that is legal already. -/
theorem fontMeetsItsLimits : Obligations.FontMeetsItsLimits := by
  refine ⟨font_legal, rfl, rfl, fun _ => mapped_of_not_ascii, fun table dotBit hlegal c => ?_⟩
  cases hc : mapped c with
  | true => simpa using clear_dotSegment_of_unlit (hlegal.dot_unlit c)
  | false => simpa using (hlegal.unmapped_blank c hc).symm

/-- Settles O19: the checks of ENCODE's row, and an answer that stores nothing. -/
theorem encodeRule : Obligations.EncodeRule :=
  ⟨fun _ => decode_of_matches (o := .encodeChar), fun s _ char dot h => exec_encodeChar s char dot h,
    reservedFieldRule .encodeChar, posRangeRule (o := .encodeChar) rfl⟩

/-- Settles O20: the checks of SET_DIGIT's row, and one write into the pending bank. -/
theorem setDigitRule : Obligations.SetDigitRule :=
  ⟨fun _ => decode_of_matches (o := .setDigit),
    fun s _ char dot h => ⟨_, exec_setDigit s char dot h, pendingWrite_frame rfl⟩,
    reservedFieldRule .setDigit, posRangeRule (o := .setDigit) rfl⟩

end Sys2Proof.Machine

/-! Proofs of the family 41_frame_store.md: what the writes, the swap and the reads of the double buffer store do, and
that a row of writes before a swap is read back. -/

namespace Sys2Proof.Machine

variable {s : State}

/-! ### An answer leaves the store; two swaps leave ACTIVE -/

@[simp] theorem State.respond_memRead (i : Instr) (d : Word) (b : BitVec 1) (p : Pos) :
    (s.respond i d).memRead b p = s.memRead b p := rfl

/-- Two swaps with an answer between them: ACTIVE is back where it was (41_frame_store.md R98). -/
theorem flipActive_respond_flipActive (i : Instr) (d : Word) :
    (s.flipActive.respond i d).flipActive = s.respond i d :=
  congrArg (fun a => { s.respond i d with active := a }) (one_sub_one_sub s.active)

/-! ### The store's commands (41_frame_store.md R92 to R96) -/

/-- What a write does: the frame goes into the pending bank and is the answer (41_frame_store.md R92,
40_frame_encoder.md R86). -/
def State.writeAndAnswer (s : State) (i : Instr) (p : Pos) (f : Frame) : State :=
  (s.memWrite s.pending p f).respond i (zext32 f)

theorem State.writeAndAnswer_memRead (s : State) (i : Instr) (p q : Pos) (f : Frame) :
    (s.writeAndAnswer i p f).memRead (1 - s.active) q = if p = q then f else s.memRead (1 - s.active) q := by
  simp [State.writeAndAnswer, State.memRead_memWrite, State.pending]

/-- Work at a position and with the frame for it, where the field names the position. -/
theorem withPos_of_written {i : Instr} {pos : BitVec 4} {frame : Pos → Frame} {p : Pos} {f : Frame}
    (h : (posOf pos).map (fun q => (q, frame q)) = some (p, f)) (g : Pos → Frame → State) :
    s.withPos i pos (fun q => g q (frame q)) = g p f := by
  obtain ⟨q, hq, hqf⟩ := Option.map_eq_some_iff.mp h
  obtain ⟨rfl, rfl⟩ := Prod.mk.inj hqf
  exact s.withPos_of_some hq _

theorem exec_of_writtenBy {i : Instr} {p : Pos} {f : Frame} (h : writtenBy i = some (p, f)) :
    exec i s = .next (s.writeAndAnswer i p f) := by
  cases i with
  | setDigit pos char dot => exact congrArg Host.Outcome.next (withPos_of_written h (s.writeAndAnswer _))
  | writeFrame pos frame => exact congrArg Host.Outcome.next (withPos_of_written h (s.writeAndAnswer _))
  | setup | swap | display | setIntensity | encodeChar | readFrame | readStatus => simp [writtenBy] at h

theorem writtenBy_writeFrame {pos : BitVec 4} (frame : Frame) (h : pos.toNat < 9) :
    writtenBy (.writeFrame pos frame) = some (⟨pos.toNat, h⟩, frame) := by
  simp [writtenBy, posOf_of_lt h]

theorem exec_swap : exec .swap s = .next (s.flipActive.respond .swap (zext32 (1 - s.active))) := rfl

theorem exec_display : exec .display s = .next (s.trigger.respond .display (zext32 s.trigger.active)) := rfl

/-- With refresh running, DISPLAY only swaps (41_frame_store.md R95, 42_refresh_scheduler.md R108). -/
theorem exec_display_of_refreshing (h : s.rstate = .refreshing) :
    exec .display s = .next (s.flipActive.respond .display (zext32 (1 - s.active))) := by
  rw [exec_display, s.trigger_of_refreshing h, State.flipActive_active]

theorem exec_readFrame {pos : BitVec 4} {p : Pos} (h : posOf pos = some p) (bank : BitVec 1) :
    exec (.readFrame pos bank) s = .next (s.respond (.readFrame pos bank) (zext32 (s.memRead bank p))) :=
  congrArg Host.Outcome.next (s.withPos_of_some h _)

/-! ### DISPLAY's swap, in either mode (42_refresh_scheduler.md R108) -/

@[simp] theorem State.trigger_active (s : State) : s.trigger.active = 1 - s.active := by
  cases h : s.rstate with
  | idle => simp [s.trigger_of_idle h]
  | refreshing => simp [s.trigger_of_refreshing h]

@[simp] theorem State.trigger_bank (s : State) : s.trigger.bank = s.bank := by
  cases h : s.rstate with
  | idle => simp [s.trigger_of_idle h]
  | refreshing => simp [s.trigger_of_refreshing h]

/-- SWAP and DISPLAY both complete with ACTIVE inverted and the store as it was. -/
theorem exec_swaps {i : Instr} (h : i = .swap ∨ i = .display) :
    ∃ t, exec i s = .next t ∧ t.active = 1 - s.active ∧ t.bank = s.bank := by
  obtain rfl | rfl := h
  · exact ⟨_, exec_swap, rfl, rfl⟩
  · exact ⟨_, exec_display, s.trigger_active, s.trigger_bank⟩

/-! ### Commands in a row -/

theorem performAll_cons {i : Instr} {t : State} (h : exec i s = .next t) (rest : List Instr) :
    performAll (i :: rest) s = performAll rest t := by simp [performAll, h]

theorem performAll_singleton {i : Instr} {t : State} (h : exec i s = .next t) : performAll [i] s = .next t :=
  performAll_cons h []

/-- Commands that complete are followed by the rest, from the state they leave. -/
theorem performAll_append {is : List Instr} {t : State} (h : performAll is s = .next t) (rest : List Instr) :
    performAll (is ++ rest) s = performAll rest t := by
  induction is generalizing s with
  | nil => cases h; rfl
  | cons i is ih =>
    cases hi : exec i s with
    | next u => rw [List.cons_append, performAll_cons hi, ih (performAll_cons hi is ▸ h)]
    | fault r => simp [performAll, hi] at h
    | refused r => simp [performAll, hi] at h

/-! ### A row of writes (41_frame_store.md R97) -/

theorem lastWritten_cons {i : Instr} {q : Pos} {f : Frame} (h : writtenBy i = some (q, f)) (p : Pos) (old : Frame)
    (rest : List Instr) :
    lastWritten p old (i :: rest) = lastWritten p (if q = p then f else old) rest := by simp [lastWritten, h]

/-- A row of writes completes, leaves ACTIVE, and leaves at each position of the pending bank the frame last written. -/
theorem performAll_writes {writes : List Instr} (h : ∀ i ∈ writes, (writtenBy i).isSome = true) :
    ∃ t, performAll writes s = .next t ∧ t.active = s.active ∧
      ∀ p, t.memRead (1 - s.active) p = lastWritten p (s.memRead (1 - s.active) p) writes := by
  induction writes generalizing s with
  | nil => exact ⟨s, rfl, rfl, fun _ => rfl⟩
  | cons i rest ih =>
    obtain ⟨hi, hrest⟩ := List.forall_mem_cons.mp h
    obtain ⟨⟨q, f⟩, hqf⟩ := Option.isSome_iff_exists.mp hi
    obtain ⟨t, ht, hactive, hread⟩ := ih (s := s.writeAndAnswer i q f) hrest
    refine ⟨t, (performAll_cons (exec_of_writtenBy hqf) rest).trans ht, hactive, fun p => ?_⟩
    rw [lastWritten_cons hqf, ← State.writeAndAnswer_memRead]
    exact hread p

/-! ### The obligations -/

/-- Settles O27: the writes go to the pending bank, which the swap makes active and leaves as it is. -/
theorem writesThenSwapReadBack : Obligations.WritesThenSwapReadBack := by
  intro s writes final hwrites hfinal
  obtain ⟨u, hu, huactive, hread⟩ := performAll_writes (s := s) hwrites
  obtain ⟨t, ht, htactive, hbank⟩ := exec_swaps (s := u) hfinal
  have hactive : t.active = 1 - s.active := by rw [htactive, huactive]
  have hlast (p : Pos) : t.memRead t.active p = lastWritten p (s.memRead (1 - s.active) p) writes := by
    rw [State.memRead_congr hbank, hactive, hread]
  refine ⟨t, (performAll_append hu [final]).trans (performAll_singleton ht), hactive, fun p => ⟨hlast p, ?_⟩⟩
  rw [exec_readFrame (posOf_posBits p), hlast]
  rfl

/-- Settles O21: the checks of WRITE_FRAME's row, and one write into the pending bank. -/
theorem writeFrameRule : Obligations.WriteFrameRule :=
  ⟨fun _ => decode_of_matches (o := .writeFrame),
    fun _ _ frame h => ⟨_, exec_of_writtenBy (writtenBy_writeFrame frame h), pendingWrite_frame rfl⟩,
    posRangeRule (o := .writeFrame) rfl⟩

/-- Settles O22: SWAP's word is its encoding, and every other word of the opcode fails the row's second check. -/
theorem swapRule : Obligations.SwapRule :=
  ⟨decode_encode (i := .swap) rfl, fun _ => exec_swap, reservedFieldRule .swap⟩

/-- Settles O23: the checks of READ_FRAME's row, and an answer that stores nothing. -/
theorem readFrameRule : Obligations.ReadFrameRule :=
  ⟨fun _ => decode_of_matches (o := .readFrame), fun _ _ bank h => exec_readFrame (posOf_of_lt h) bank,
    reservedFieldRule .readFrame, posRangeRule (o := .readFrame) rfl⟩

/-- Settles O25: the second swap undoes the first one's change of ACTIVE. -/
theorem twoSwapsRestore : Obligations.TwoSwapsRestore := by
  intro s
  rw [performAll_cons exec_swap, performAll_singleton exec_swap, flipActive_respond_flipActive, State.respond_active,
    State.flipActive_active, one_sub_one_sub]
  simp [State.respond, State.emit, encode, wordN, Op.pattern, zext32]

/-- Settles O26: with refresh running both are one swap, and the answers differ in the word. -/
theorem swapAndDisplayAlikeWhileRefreshing : Obligations.SwapAndDisplayAlikeWhileRefreshing := fun _ h =>
  ⟨_, _, exec_swap, exec_display_of_refreshing h, rfl, rfl, rfl⟩

end Sys2Proof.Machine

/-! Proofs of the family 42_refresh_scheduler.md: SETUP, DISPLAY, submission and the completion step, and what runs of
them keep: stalled positions, the latency of a swap, and refresh on a reliable bus. -/

namespace Sys2Proof.Machine

variable {s t : State}

/-! ### Where only the transfers, the answers of the bus and the history differ -/

/-- `t` is `s` but for OUT, XFER, SUBMIT_ERR, HIST and the answers of the bus that were used. -/
def State.SameButTransfers (s t : State) : Prop :=
  t.bank = s.bank ∧ t.active = s.active ∧ t.rstate = s.rstate ∧ t.busReady = s.busReady ∧
    t.setupDone = s.setupDone ∧ t.intensity = s.intensity ∧ t.ill = s.ill ∧ t.lastCause = s.lastCause ∧
    t.pinEn = s.pinEn ∧ t.pinOe = s.pinOe ∧ t.pinLatch = s.pinLatch ∧ t.inputs = s.inputs

theorem State.SameButTransfers.eq (h : s.SameButTransfers t) :
    t = { s with
      out := t.out, xfer := t.xfer, submitErr := t.submitErr, hist := t.hist, draws := t.draws,
      drawIndex := t.drawIndex } := by
  obtain ⟨hbank, hactive, hrstate, hbus, hsetup, hint, hill, hcause, hen, hoe, hlatch, hin⟩ := h
  rw [← hbank, ← hactive, ← hrstate, ← hbus, ← hsetup, ← hint, ← hill, ← hcause, ← hen, ← hoe, ← hlatch, ← hin]

theorem State.submit_sameButTransfers (s : State) (p : Pos) : s.SameButTransfers (s.submit p) :=
  s.foldl_submit_same [p]

theorem State.submitAll_sameButTransfers (s : State) : s.SameButTransfers s.submitAll := s.foldl_submit_same allPos

theorem State.completed_sameButTransfers (s : State) (p : Pos) (f : Frame) :
    (s.setLatch .low).SameButTransfers (s.completed p f) := s.completed_same p f

/-! ### SETUP and DISPLAY (42_refresh_scheduler.md R102, R108) -/

theorem exec_setup_of_first (h : s.setupDone = false) :
    exec .setup s = .next ((s.setUp (s.drawAt 0)).respond .setup (zext32 (BitVec.ofBool (readyOf (s.drawAt 0))))) :=
  congrArg Host.Outcome.next (if_neg (by simp [h]))

theorem readyOf_eq_decide (st : BusStatus) : readyOf st = decide (st = .ok) := by cases st <;> rfl

theorem zext32_readyOf (st : BusStatus) : zext32 (BitVec.ofBool (readyOf st)) = if st = .ok then 1 else 0 := by
  cases st <;> rfl

/-- The first DISPLAY: the swap, then the nine submissions, then the answer. -/
theorem exec_display_of_idle (h : s.rstate = .idle) :
    exec .display s = .next (s.started.submitAll.respond .display (zext32 (1 - s.active))) := by
  rw [exec_display, State.trigger_active, s.trigger_of_idle h]

theorem decode_display : decode 0x50000000 = .ok .display := decode_encode (i := .display) rfl

/-- The events of the first DISPLAY (42_refresh_scheduler.md R109): nine submissions from the new active bank, and the
answer `d`. -/
def State.startEvents (s : State) (d : Word) : List Event :=
  (allPos.map fun p => .submit p (s.memRead (1 - s.active) p) (s.outcomeAt p.val)) ++
    [.cmd 0x50000000 false d]

theorem start_hist (s : State) (d : Word) :
    (s.started.submitAll.respond .display d).hist = s.hist ++ s.startEvents d := by
  rw [State.respond_hist, State.submitAll_hist, List.append_assoc]
  rfl

theorem submit_mem_startEvents (s : State) (d : Word) (p : Pos) :
    .submit p (s.memRead (1 - s.active) p) (s.outcomeAt p.val) ∈ s.startEvents d := by simp [State.startEvents]

theorem start_out (s : State) (d : Word) (p : Pos) :
    (s.started.submitAll.respond .display d).out.get p = (decide (s.outcomeAt p.val = .ok) || s.out.get p) :=
  s.started.submitAll_out p

/-! ### The events of a completion (42_refresh_scheduler.md R110) -/

/-- Step 2 of a completion, as the history shows it. -/
def State.resubmission (s : State) (p : Pos) : List Event :=
  match s.rstate with
  | .idle => []
  | .refreshing => [.submit p (s.memRead s.active p) s.submitStatus]

/-- The events of a completion, in order, in either mode. -/
def State.completionEvents (s : State) (p : Pos) (f : Frame) : List Event :=
  .complete p f :: .latchHigh p :: (s.resubmission p ++ [.latchLow p])

theorem completed_hist_eq (s : State) (p : Pos) (f : Frame) :
    (s.completed p f).hist = s.hist ++ s.completionEvents p f := by
  cases h : s.rstate with
  | idle => simp [s.completed_hist_idle p f h, State.completionEvents, State.resubmission, h]
  | refreshing => simp [s.completed_hist p f h, State.completionEvents, State.resubmission, h]

theorem submit_mem_completionEvents {p q : Pos} {f g : Frame} {st : BusStatus} :
    .submit q g st ∈ s.completionEvents p f ↔
      s.rstate = .refreshing ∧ q = p ∧ g = s.memRead s.active p ∧ st = s.submitStatus := by
  cases h : s.rstate <;> simp [State.completionEvents, State.resubmission, h]

theorem completionEvents_countP_isSubmit (s : State) (p : Pos) (f : Frame) :
    (s.completionEvents p f).countP Event.isSubmit ≤ 1 := by
  cases h : s.rstate <;> simp [State.completionEvents, State.resubmission, h, Event.isSubmit, List.countP_cons]

/-- A completion step that completes had an outstanding transfer with its payload. -/
theorem completionStep_eq_next {p : Pos} (h : completionStep p s = .next t) :
    ∃ f, s.out.get p = true ∧ s.xfer.get p = some f ∧ t = s.completed p f := by
  obtain ⟨-, h'⟩ | ⟨-, -, h'⟩ | ⟨f, ho, hx, h'⟩ := completionStep_cases s h
  · cases h'
  · cases h'
  · exact ⟨f, ho, hx, Host.Outcome.next.inj h'⟩

theorem completionStep_of_not_outstanding {p : Pos} (h : s.out.get p = false) (u : State) :
    completionStep p s ≠ .next u := by
  intro hu
  obtain ⟨_, ho, -⟩ := completionStep_eq_next hu
  simp [h] at ho

/-- Under I-b an outstanding transfer has its payload, so its completion runs. -/
theorem State.Inv.completes (h : s.Inv) {p : Pos} (ho : s.out.get p = true) :
    ∃ f, s.xfer.get p = some f ∧ completionStep p s = .next (s.completed p f) := by
  obtain ⟨f, hf⟩ := Option.isSome_iff_exists.mp (h.out_iff_payload p ▸ ho)
  exact ⟨f, hf, completionStep_of_outstanding s ho hf⟩

/-- Under I-a a transfer is outstanding only while refresh runs. -/
theorem State.Inv.refreshing_of_out (h : s.Inv) {p : Pos} (ho : s.out.get p = true) : s.rstate = .refreshing := by
  cases hr : s.rstate with
  | refreshing => rfl
  | idle => simp [h.idle_none_out hr p] at ho

/-- Under I-d a transfer is outstanding only on a ready bus. -/
theorem State.Inv.ready_of_out (h : s.Inv) {p : Pos} (ho : s.out.get p = true) : s.busReady = true := by
  cases hb : s.busReady with
  | true => rfl
  | false => simp [h.unready_none_out hb p] at ho

/-! ### Which submissions a step makes (42_refresh_scheduler.md R113, R114) -/

/-- Only a DISPLAY from IDLE submits, of all commands. -/
theorem CommandEffect.no_submit {w : Word} (h : CommandEffect w s t)
    (hno : ¬(decode w = .ok .display ∧ s.rstate = .idle)) :
    ∃ ev, t.hist = s.hist ++ ev ∧ ∀ e ∈ ev, e.isSubmit = false := by
  cases h with
  | illegal v c => exact ⟨_, rfl, by simp [Event.isSubmit]⟩
  | answer i d => exact ⟨_, rfl, by simp [Event.isSubmit]⟩
  | write p f i d => exact ⟨_, rfl, by simp [Event.isSubmit]⟩
  | swap i d => exact ⟨_, rfl, by simp [Event.isSubmit]⟩
  | level l i d => exact ⟨_, rfl, by simp [Event.isSubmit]⟩
  | setup d hs =>
    exact ⟨[.busInit (s.drawAt 0), .cmd (encode .setup) false d], by simp, by simp [Event.isSubmit]⟩
  | start d hw hr => exact absurd ⟨hw, hr⟩ hno

/-- From `s` to `t` events were recorded, and each submission among them was made from IDLE, or for the position whose
outstanding transfer finished first. -/
def FreeSubmits (s t : State) : Prop :=
  ∃ ev, t.hist = s.hist ++ ev ∧ ∀ p f st, .submit p f st ∈ ev →
    s.rstate = .idle ∨ (s.out.get p = true ∧ ∃ g, ev.head? = some (.complete p g))

theorem CommandEffect.freeSubmits {w : Word} (h : CommandEffect w s t) : FreeSubmits s t := by
  cases hr : s.rstate with
  | idle =>
    cases h with
    | start d hw hr => exact ⟨_, start_hist s d, fun _ _ _ _ => .inl hr⟩
    | illegal | answer | write | swap | level => exact ⟨_, rfl, fun _ _ _ _ => .inl hr⟩
    | setup d hs => exact ⟨_, List.append_assoc .., fun _ _ _ _ => .inl hr⟩
  | refreshing =>
    obtain ⟨ev, hhist, hev⟩ := h.no_submit (by simp [hr])
    exact ⟨ev, hhist, fun _ _ _ he => absurd (hev _ he) (by simp [Event.isSubmit])⟩

theorem completed_freeSubmits {p : Pos} (f : Frame) (ho : s.out.get p = true) : FreeSubmits s (s.completed p f) := by
  refine ⟨_, completed_hist_eq s p f, fun q g st he => .inr ?_⟩
  obtain ⟨-, rfl, -, -⟩ := submit_mem_completionEvents.mp he
  exact ⟨ho, f, rfl⟩

theorem InputEffect.freeSubmits {e : Input} (h : InputEffect s e t) (hne : e ≠ .reset) : FreeSubmits s t := by
  cases h with
  | command w _ hc => exact hc.freeSubmits
  | complete p f ho _ => exact completed_freeSubmits f ho
  | reset => exact absurd rfl hne

theorem step_freeSubmits (hne : s.inputs.head? ≠ some .reset) (hstep : step s = .next t) : FreeSubmits s t := by
  obtain ⟨e, s0, hs, he, hreset⟩ | ⟨rfl, -, -⟩ := step_effect hstep
  · obtain ⟨-, -, hrstate, hout, -, -, -, -, -, -, -, -, -, -, hhist⟩ := hs.elements
    have h0 := he.freeSubmits fun h => hne (hreset h)
    simpa only [FreeSubmits, hrstate, hout, hhist] using h0
  · exact ⟨[], by simp, by simp⟩

theorem allPos_filter_eq (p : Pos) : allPos.filter (fun q => decide (q = p)) = [p] := by revert p; decide

/-- Among the events of the first DISPLAY one submission is for `p`. -/
theorem startEvents_filter (s : State) (d : Word) (p : Pos) :
    (s.startEvents d).filter (fun e => match e with | .submit q _ _ => decide (q = p) | _ => false) =
      [.submit p (s.memRead (1 - s.active) p) (s.outcomeAt p.val)] := by
  rw [State.startEvents, List.filter_append, List.filter_map]
  exact congrArg (fun ps => List.map _ ps ++ []) (allPos_filter_eq p)

/-! ### A step that the schedule does not name (70_reset_and_hazards.md R159, R174) -/

theorem mem_outstanding {p : Pos} : p ∈ s.outstanding ↔ s.out.get p = true := by simp [State.outstanding]

theorem step_of_quiet (hin : s.inputs = []) (hnone : ∀ p, s.out.get p = false) : step s = .next s := by
  have hempty : s.outstanding = [] := List.eq_nil_iff_forall_not_mem.mpr fun p hp => by
    simp [mem_outstanding, hnone p] at hp
  simp [step, takeStep, hin, quietStep, hempty]

/-- With a transfer outstanding the step is the completion of an outstanding one: the pick is in range. -/
theorem step_of_no_input {q : Pos} (hin : s.inputs = []) (hq : s.out.get q = true) :
    ∃ p, s.out.get p = true ∧ step s = completionStep p { s with drawIndex := s.drawIndex + 1 } := by
  have hmem : q ∈ s.outstanding := mem_outstanding.mpr hq
  cases ho : s.outstanding with
  | nil => simp [ho] at hmem
  | cons p ps =>
    have hlt : Config.freePick s.drawIndex % (ps.length + 1) < (p :: ps).length := Nat.mod_lt _ (Nat.succ_pos _)
    refine ⟨(p :: ps).getD (Config.freePick s.drawIndex % (ps.length + 1)) p, ?_, ?_⟩
    · rw [List.getD_eq_getElem _ _ hlt, ← mem_outstanding, ho]
      exact List.getElem_mem hlt
    · simp [step, takeStep, hin, quietStep, ho]

/-! ### Stalled positions (42_refresh_scheduler.md R115, R116) -/

@[simp] theorem State.stalled_iff {p : Pos} :
    s.stalled p = true ↔ s.rstate = .refreshing ∧ s.out.get p = false := by simp [State.stalled]

/-- While refresh runs no command touches RSTATE or a transfer. -/
theorem CommandEffect.keeps_transfers {w : Word} (h : CommandEffect w s t) (hr : s.rstate = .refreshing) :
    t.rstate = s.rstate ∧ t.out = s.out ∧ t.xfer = s.xfer := by
  cases h with
  | illegal | answer | write | swap | level | setup => exact ⟨rfl, rfl, rfl⟩
  | start d hw hidle => simp [hr] at hidle

theorem InputEffect.keeps_stalled {e : Input} {p : Pos} (h : InputEffect s e t) (hne : e ≠ .reset)
    (hp : s.stalled p = true) : t.stalled p = true := by
  obtain ⟨hr, ho⟩ := State.stalled_iff.mp hp
  rw [State.stalled_iff]
  cases h with
  | command w _ hc =>
    obtain ⟨hrstate, hout, -⟩ := hc.keeps_transfers hr
    exact ⟨hrstate.trans hr, hout ▸ ho⟩
  | complete q f hq _ =>
    have hqp : q ≠ p := by rintro rfl; simp [ho] at hq
    obtain ⟨-, -, hrstate, -⟩ := s.completed_same q f
    exact ⟨hrstate.trans hr, by simpa [State.completed_out, hqp] using ho⟩
  | reset => exact absurd rfl hne

theorem step_keeps_stalled {p : Pos} (hne : s.inputs.head? ≠ some .reset) (hstep : step s = .next t)
    (hp : s.stalled p = true) : t.stalled p = true := by
  obtain ⟨e, s0, hs, he, hreset⟩ | ⟨rfl, -, -⟩ := step_effect hstep
  · obtain ⟨-, -, hrstate, hout, -⟩ := hs.elements
    exact he.keeps_stalled (fun h => hne (hreset h)) (by simpa [hrstate, hout] using hp)
  · exact hp

/-- A failure on record explains every stall: each step that leaves a position without a transfer while refresh runs
sets SUBMIT_ERR in the same step. -/
theorem InputEffect.keeps_stallInv {e : Input} (h : InputEffect s e t) (hs : s.StallInv) : t.StallInv := by
  intro p hp
  cases h with
  | command w _ hc =>
    cases hc with
    | illegal | answer | write | swap | level | setup => exact hs p hp
    | start d hw hr =>
      obtain ⟨-, ho⟩ := State.stalled_iff.mp hp
      have hfail : s.outcomeAt p.val = .fail := by
        cases hst : s.outcomeAt p.val with
        | fail => rfl
        | ok => simp [State.submitAll_out, hst] at ho
      exact s.started.submitAll_submitErr.mpr (.inr ⟨p, hfail⟩)
  | complete q f hq hx =>
    obtain ⟨-, -, hrstate, -⟩ := s.completed_same q f
    rw [State.stalled_iff, hrstate, State.completed_out] at hp
    obtain ⟨hr, ho⟩ := hp
    rw [State.completed_submitErr]
    by_cases hqp : q = p
    · cases hst : s.submitStatus with
      | fail => simp [hr]
      | ok => simp [hqp, hr, hst] at ho
    · simp [hs p (State.stalled_iff.mpr ⟨hr, by simpa [hqp] using ho⟩)]
  | reset => exact absurd hp (by simp [State.reset])

/-! ### Runs of agents' steps -/

/-- What each of the steps keeps, a run of them keeps. -/
theorem runInputs_keeps {P : State → Prop} {es : List Input}
    (hP : ∀ e ∈ es, ∀ s t, inputStep e s = .next t → P s → P t) (h : runInputs es s = .next t) (hs : P s) : P t := by
  induction es generalizing s with
  | nil => cases h; exact hs
  | cons e es ih =>
    obtain ⟨he, hes⟩ := List.forall_mem_cons.mp hP
    cases hi : inputStep e s with
    | next u => exact ih hes (by simpa [runInputs, hi] using h) (he s u hi hs)
    | fault r => simp [runInputs, hi] at h
    | refused r => simp [runInputs, hi] at h

/-! ### A transfer in flight (42_refresh_scheduler.md R119) -/

/-- Refresh runs from bank `a`, and the transfer outstanding for `p` carries `f`. -/
structure State.InFlight (s : State) (a : BitVec 1) (p : Pos) (f : Frame) : Prop where
  refreshing : s.rstate = .refreshing
  active : s.active = a
  out : s.out.get p = true
  xfer : s.xfer.get p = some f

theorem withPos_active {i : Instr} {pos : BitVec 4} {f : Pos → State} (hf : ∀ p, (f p).active = s.active) :
    (s.withPos i pos f).active = s.active := by
  cases hp : posOf pos with
  | none => rw [s.withPos_of_none hp]; rfl
  | some p => rw [s.withPos_of_some hp]; exact hf p

/-- Of the commands only SWAP and DISPLAY write ACTIVE (20_memory.md R53). -/
theorem exec_keeps_active {i : Instr} (h : exec i s = .next t) (hswap : i ≠ .swap) (hdisplay : i ≠ .display) :
    t.active = s.active := by
  cases i with
  | setup =>
    cases hs : s.setupDone with
    | false => exact Host.Outcome.next.inj ((exec_setup_of_first hs).symm.trans h) ▸ rfl
    | true => exact Host.Outcome.next.inj ((exec_repeated_setup hs).symm.trans h) ▸ rfl
  | setDigit | writeFrame | encodeChar | readFrame =>
    exact Host.Outcome.next.inj h ▸ withPos_active fun _ => rfl
  | swap => exact absurd rfl hswap
  | display => exact absurd rfl hdisplay
  | setIntensity | readStatus => exact Host.Outcome.next.inj h ▸ rfl

theorem commandStep_keeps_active {w : Word} (h : commandStep w s = .next t) (hswap : decode w ≠ .ok .swap)
    (hdisplay : decode w ≠ .ok .display) : t.active = s.active := by
  cases hd : decode w with
  | error c => exact Host.Outcome.next.inj ((commandStep_of_error hd).symm.trans h) ▸ rfl
  | ok i =>
    refine exec_keeps_active ((commandStep_of_ok hd).symm.trans h) ?_ ?_
    · rintro rfl; exact hswap hd
    · rintro rfl; exact hdisplay hd

theorem State.InFlight.input {a : BitVec 1} {p : Pos} {f : Frame} {e : Input} (h : s.InFlight a p f)
    (he : e.leavesTransfer p = true) (hstep : inputStep e s = .next t) : t.InFlight a p f := by
  obtain ⟨hr, ha, ho, hx⟩ := h
  cases e with
  | command w =>
    obtain ⟨hswap, hdisplay⟩ : decode w ≠ .ok .swap ∧ decode w ≠ .ok .display := by
      simpa [Input.leavesTransfer] using he
    obtain ⟨hrstate, hout, hxfer⟩ := (commandStep_effect hstep).keeps_transfers hr
    exact ⟨hrstate.trans hr, (commandStep_keeps_active hstep hswap hdisplay).trans ha, hout ▸ ho, hxfer ▸ hx⟩
  | complete q =>
    have hqp : q ≠ p := by simpa [Input.leavesTransfer] using he
    obtain ⟨g, -, -, rfl⟩ := completionStep_eq_next hstep
    obtain ⟨-, hactive, hrstate, -⟩ := s.completed_same q g
    exact ⟨hrstate.trans hr, hactive.trans ha, by simpa [State.completed_out, hqp] using ho,
      by simpa [State.completed_xfer, hqp] using hx⟩
  | reset => simp [Input.leavesTransfer] at he

theorem State.InFlight.run {a : BitVec 1} {p : Pos} {f : Frame} {es : List Input} (h : s.InFlight a p f)
    (hes : ∀ e ∈ es, e.leavesTransfer p = true) (hrun : runInputs es s = .next t) : t.InFlight a p f :=
  runInputs_keeps (P := fun u => u.InFlight a p f) (fun e he _ _ hstep hs => hs.input (hes e he) hstep) hrun h

theorem State.InFlight.completes {a : BitVec 1} {p : Pos} {f : Frame} (h : s.InFlight a p f) :
    completionStep p s = .next (s.completed p f) := completionStep_of_outstanding s h.out h.xfer

/-- An accepted re-submission puts the active bank's frame in flight. -/
theorem State.InFlight.completed {a : BitVec 1} {p : Pos} {f : Frame} (h : s.InFlight a p f)
    (hok : s.submitStatus = .ok) : (s.completed p f).InFlight a p (s.memRead a p) := by
  obtain ⟨-, hactive, hrstate, -⟩ := s.completed_same p f
  exact ⟨hrstate.trans h.refreshing, hactive.trans h.active, by simp [State.completed_out, h.refreshing, hok],
    by simp [State.completed_xfer, h.refreshing, hok, h.active]⟩

/-! ### Infinite runs on a reliable bus (42_refresh_scheduler.md R120, 70_reset_and_hazards.md R175) -/

/-- An agent's step under some answers of the bus is a step of the machine from the same block state. -/
theorem State.canStep.step {e : Input} (h : s.canStep e t) :
    ∃ s0, s.sameBlock s0 ∧ s0.inputs.head? = some e ∧ step s0 = .next t := by
  obtain ⟨answers, hstep⟩ := h
  exact ⟨{ s with draws := answers, inputs := e :: s.inputs }, rfl, rfl, hstep⟩

theorem State.fresh.sameBlock (h : s.fresh) : State.reset.sameBlock s := by
  rw [State.sameBlock, ← h]

/-- The invariants hold all along a run from reset. -/
theorem run_invariants {e : Nat → Input} {r : Nat → State} (hrun : IsRun e r) (hfresh : (r 0).fresh) (n : Nat) :
    (r n).Inv ∧ (r n).TransferInv := by
  induction n with
  | zero => exact ⟨reset_inv.sameBlock hfresh.sameBlock, reset_transferInv.sameBlock hfresh.sameBlock⟩
  | succ n ih =>
    obtain ⟨s0, hs, -, hstep⟩ := (hrun n).step
    have hinv : s0.Inv := ih.1.sameBlock hs
    exact ⟨hinv.step hstep, transfersConserved _ _ hinv (ih.2.sameBlock hs) hstep⟩

/-- On a reliable bus no submission after a successful bus initialisation fails. -/
theorem State.reliable.no_fail {ev : List Event} (h : t.reliable) (hok : s.busOk) (hhist : t.hist = s.hist ++ ev)
    (p : Pos) (f : Frame) : .submit p f .fail ∉ ev := by
  intro hin
  obtain ⟨before, after, rfl⟩ := List.append_of_mem hin
  exact h (s.hist ++ before) p f after (by simp [hhist]) (List.mem_append_left _ hok)

theorem State.reliable.all_ok {ev : List Event} (h : t.reliable) (hok : s.busOk) (hhist : t.hist = s.hist ++ ev)
    {p : Pos} {f : Frame} {st : BusStatus} (hin : .submit p f st ∈ ev) : st = .ok := by
  cases st with
  | ok => rfl
  | fail => exact absurd hin (h.no_fail hok hhist p f)

/-- Refresh runs on a bus that was initialised, with every transfer outstanding. -/
structure State.AllOutstanding (s : State) : Prop where
  busOk : s.busOk
  refreshing : s.rstate = .refreshing
  out : ∀ p, s.out.get p = true

theorem State.busOk.append {ev : List Event} (h : s.busOk) (hhist : t.hist = s.hist ++ ev) : t.busOk := by
  rw [State.busOk, hhist]; exact List.mem_append_left _ h

/-- The first DISPLAY on a reliable bus: every submission is accepted. -/
theorem start_allOutstanding (hok : s.busOk) (hr : s.rstate = .idle) (hstep : commandStep 0x50000000 s = .next t)
    (hrel : t.reliable) : t.AllOutstanding := by
  rw [commandStep_of_ok decode_display, exec_display_of_idle hr] at hstep
  obtain rfl := Host.Outcome.next.inj hstep
  have haccepted (p : Pos) : s.outcomeAt p.val = .ok :=
    hrel.all_ok hok (start_hist s _) (submit_mem_startEvents s _ p)
  exact ⟨hok.append (start_hist s _), by simp, fun p => by rw [start_out]; simp [haccepted p]⟩

/-- A later step on a reliable bus: a command leaves the transfers, and a completion's re-submission is accepted. -/
theorem State.AllOutstanding.input {e : Input} (h : s.AllOutstanding) (he : InputEffect s e t) (hne : e ≠ .reset)
    (hrel : t.reliable) : t.AllOutstanding := by
  obtain ⟨ev, hhist, -⟩ := he.freeSubmits hne
  have hbus : t.busOk := h.busOk.append hhist
  cases he with
  | command w _ hc =>
    obtain ⟨hrstate, hout, -⟩ := hc.keeps_transfers h.refreshing
    exact ⟨hbus, hrstate.trans h.refreshing, hout ▸ h.out⟩
  | complete p f _ _ =>
    obtain ⟨-, -, hrstate, -⟩ := s.completed_same p f
    have hok : s.submitStatus = .ok := hrel.all_ok h.busOk (completed_hist_eq s p f)
      (submit_mem_completionEvents.mpr ⟨h.refreshing, rfl, rfl, rfl⟩)
    exact ⟨hbus, hrstate.trans h.refreshing, fun q => by simp [State.completed_out, h.refreshing, hok, h.out q]⟩
  | reset => exact absurd rfl hne

/-- From the first DISPLAY on, every state of a run on a reliable bus without reset has every transfer outstanding. -/
theorem run_allOutstanding {e : Nat → Input} {r : Nat → State} (hrun : IsRun e r) (hrel : ∀ n, (r n).reliable)
    (hne : ∀ n, e n ≠ .reset) {k : Nat} (hok : (r k).busOk) (hr : (r k).rstate = .idle)
    (hdisplay : e k = .command 0x50000000) {n : Nat} (hn : k < n) : (r n).AllOutstanding := by
  induction n, hn using Nat.le_induction with
  | base =>
    obtain ⟨answers, hstep⟩ := hrun k
    rw [hdisplay] at hstep
    exact start_allOutstanding (s := { r k with draws := answers }) hok hr hstep (hrel (k + 1))
  | succ n _ ih =>
    obtain ⟨answers, hstep⟩ := hrun n
    have ih' : ({ r n with draws := answers } : State).AllOutstanding := { ih with }
    exact ih'.input (inputStep_effect hstep) (hne n) (hrel (n + 1))

/-! ### The obligations -/

/-- Settles O37: a first DISPLAY finds no transfer outstanding (I-a), and a completion submits for the position whose
transfer it has just finished. -/
theorem neverSubmitsOverOutstanding : Obligations.NeverSubmitsOverOutstanding := by
  intro s t hinv hne hstep
  obtain ⟨ev, hhist, hev⟩ := step_freeSubmits hne hstep
  refine ⟨ev, hhist, fun p f st he => ?_⟩
  obtain hidle | ⟨-, hhead⟩ := hev p f st he
  · exact .inl (hinv.idle_none_out hidle p)
  · exact .inr hhead

/-- Settles O41: with the bus not ready all nine submissions fail, and a stalled position stays stalled along every run
without reset. -/
theorem degradedUntilReset : Obligations.DegradedUntilReset := by
  intro s hinv hr hb
  have hfail (k : Nat) : s.outcomeAt k = .fail := by simp [State.outcomeAt, hb]
  have hout (p : Pos) : (s.started.submitAll.respond .display (zext32 (1 - s.active))).out.get p = false := by
    rw [start_out]; simp [hfail, hinv.idle_none_out hr p]
  refine ⟨_, exec_display_of_idle hr, by simp, ?_, hout, fun p => ?_, fun es u hes hrun p => ?_⟩
  · exact s.started.submitAll_submitErr.mpr (.inr ⟨0, hfail _⟩)
  · rw [start_hist, ← hfail p.val]
    exact List.mem_append_right _ (submit_mem_startEvents s _ p)
  · have hu : u.stalled p = true := by
      refine runInputs_keeps (P := fun v => v.stalled p = true) (fun e he _ _ hstep hs => ?_) hrun
        (State.stalled_iff.mpr ⟨by simp, hout p⟩)
      exact (inputStep_effect hstep).keeps_stalled (by rintro rfl; exact hes he) hs
    exact ⟨hu, completionStep_of_not_outstanding (State.stalled_iff.mp hu).2⟩

/-- Settles O43: each of the two completions reports the transfer that was in flight, and the first puts the active
bank's frame in flight. -/
theorem swapLatencyTwoCompletions : Obligations.SwapLatencyTwoCompletions := by
  intro s p f between t hr ho hx hbetween hrun
  have ht : t.InFlight s.active p f := State.InFlight.run ⟨hr, rfl, ho, hx⟩ hbetween hrun
  refine ⟨_, ht.completes, ?_, fun between' v hok hbetween' hrun' => ?_⟩
  · rw [t.completed_hist p f ht.refreshing, ht.active]
  · have hv := (ht.completed hok).run hbetween' hrun'
    exact ⟨_, _, hv.completes, completed_hist_eq v p _⟩

/-- Settles O44: every state after the first DISPLAY has every transfer outstanding, so the count of accepted transfers
is one ahead and a fair bus agent completes each position again. -/
theorem reliableRefreshNeverStalls : Obligations.ReliableRefreshNeverStalls := by
  intro e r hrun hfair hfresh hrel hne k hok hr hdisplay p n hn
  have hall {m : Nat} (hm : k < m) : (r m).AllOutstanding := run_allOutstanding hrun hrel hne hok hr hdisplay hm
  have hout : (r n).out.get p = true := (hall hn).out p
  refine ⟨hout, ?_, hfair n p fun m hm => (hall (by omega)).out p⟩
  simpa [hout] using (run_invariants hrun hfresh n).2.balance p

/-- Settles O29: the checks of SETUP's row, the accepted SETUP by the bus's answer, and the repeated one. -/
theorem setupRule : Obligations.SetupRule := by
  refine ⟨decode_encode (i := .setup) rfl, fun s hs => ⟨_, exec_setup_of_first hs, ?_⟩,
    fun s hs => exec_repeated_setup hs, reservedFieldRule .setup⟩
  rw [← readyOf_eq_decide, ← zext32_readyOf, List.append_cons]
  rfl

/-- Settles O31: the outcome by BUS_READY, then what `submit_cases` says of a submission, and its frame. -/
theorem submitEffect : Obligations.SubmitEffect := by
  intro s p
  refine ⟨s.submitStatus_of_not_ready, fun hb st => ⟨[st], ?_⟩, s.submit_hist p, fun hok => ?_, fun hfail => ?_,
    fun q hq => ?_, (s.submit_sameButTransfers p).eq⟩
  · exact State.submitStatus_of_ready _ hb
  · simp [State.submit_out, State.submit_xfer, State.submit_submitErr, hok]
  · obtain ⟨hok, -⟩ | ⟨-, hrest⟩ := (s.submit_cases p).2
    · simp [hok] at hfail
    · exact hrest
  · simp [State.submit_out, State.submit_xfer, hq.symm]

/-- Settles O32: in REFRESHING a swap; from IDLE the nine submissions of `submitAll` after it. -/
theorem displayRule : Obligations.DisplayRule := by
  refine ⟨decode_display, fun s hr => exec_display_of_refreshing hr,
    fun s hr => ⟨_, exec_display_of_idle hr, start_out s _, fun p => s.started.submitAll_xfer p,
      s.started.submitAll_submitErr, ?_⟩, reservedFieldRule .display⟩
  have hsame : s.started.SameButTransfers (s.started.submitAll.respond .display (zext32 (1 - s.active))) :=
    s.started.submitAll_sameButTransfers
  have hhist := start_hist s (zext32 (1 - s.active))
  rw [State.startEvents, ← List.append_assoc] at hhist
  exact hhist ▸ hsame.eq

/-- Settles O33: the events, the descriptor and the flag of `completed`, in either mode, and its frame. -/
theorem completionRule : Obligations.CompletionRule := by
  intro s p f ho hx
  refine ⟨_, completionStep_of_outstanding s ho hx, fun hr => ⟨s.completed_hist p f hr, ?_⟩,
    fun hr => ⟨s.completed_hist_idle p f hr, ?_⟩, fun q hq => ?_, (s.completed_sameButTransfers p f).eq⟩
  · simp [State.completed_out, State.completed_xfer, State.completed_submitErr, hr]
  · simp [State.completed_out, State.completed_xfer, State.completed_submitErr, hr]
  · simp [State.completed_out, State.completed_xfer, hq.symm]

/-- Settles O35: an outstanding transfer has its payload (I-b), refresh runs (I-a) and the bus is ready (I-d), so the
outcome of the re-submission is the answer drawn. -/
theorem anyOutstandingMayComplete : Obligations.AnyOutstandingMayComplete := by
  intro s p hinv ho st
  obtain ⟨f, hx, -⟩ := hinv.completes ho
  have hanswer : ({ s with draws := [st] } : State).submitStatus = st :=
    State.submitStatus_of_ready _ (hinv.ready_of_out ho)
  refine ⟨_, ⟨[st], completionStep_of_outstanding { s with draws := [st] } ho hx⟩, ?_⟩
  rw [completed_hist_eq, List.drop_left]
  exact submit_mem_completionEvents.mpr ⟨hinv.refreshing_of_out ho, rfl, rfl, hanswer.symm⟩

/-- Settles O36: a completion's events hold at most its one re-submission; of the commands only a DISPLAY from IDLE
submits, for each of the nine different positions. -/
theorem submissionsPerStep : Obligations.SubmissionsPerStep := by
  refine ⟨fun s p t h => ?_, fun s t w h => ?_⟩
  · obtain ⟨f, -, -, rfl⟩ := completionStep_eq_next h
    exact ⟨_, completed_hist_eq s p f, completionEvents_countP_isSubmit s p f,
      fun q g st hq => (submit_mem_completionEvents.mp hq).2.1⟩
  · by_cases hfirst : decode w = .ok .display ∧ s.rstate = .idle
    · rw [commandStep_of_ok hfirst.1, exec_display_of_idle hfirst.2] at h
      obtain rfl := Host.Outcome.next.inj h
      refine ⟨_, start_hist s _, fun _ p => ⟨_, _, startEvents_filter s _ p⟩, fun hno => absurd hfirst hno⟩
    · obtain ⟨ev, hhist, hev⟩ := (commandStep_effect h).no_submit hfirst
      exact ⟨ev, hhist, fun hyes => absurd hyes hfirst, fun _ => List.countP_eq_zero.mpr (by simpa using hev)⟩

/-- Settles O38: no step but reset gives a stalled position a transfer, and a submission of the step is made from IDLE
or for a position that had one. -/
theorem stalledUntilReset : Obligations.StalledUntilReset := by
  intro s t p hne hstep hp
  obtain ⟨hr, ho⟩ := State.stalled_iff.mp hp
  obtain ⟨ev, hhist, hev⟩ := step_freeSubmits hne hstep
  refine ⟨step_keeps_stalled hne hstep hp, completionStep_of_not_outstanding ho, ev, hhist, fun f st he => ?_⟩
  obtain hidle | ⟨hout, -⟩ := hev p f st he
  · simp [hr] at hidle
  · simp [ho] at hout

/-- Settles O39: transfers are conserved, so each of the nine positions adds at most one, and the queue takes twelve. -/
theorem queueNeverOverflows : Obligations.QueueNeverOverflows := by
  intro s t hinv htransfer hstep
  have hbalance := (transfersConserved s t hinv htransfer hstep).balance
  have hone (p : Pos) : finishedCount p t.hist ≤ acceptedCount p t.hist ∧
      acceptedCount p t.hist ≤ finishedCount p t.hist + 1 := by
    have := hbalance p
    split at this <;> omega
  refine ⟨hone, ?_, by unfold Config.queueDepth; omega⟩
  refine List.sum_le_card_nsmul _ 1 fun x hx => ?_
  obtain ⟨p, -, rfl⟩ := List.mem_map.mp hx
  have := hone p
  omega

/-- Settles O40: OUT, XFER, SUBMIT_ERR and the events of a completion are functions of the values listed. -/
theorem completionReadsOnlyItsInputs : Obligations.CompletionReadsOnlyItsInputs := by
  intro s s' p t t' h h' hxfer hactive hread hrstate hbus hstatus herr
  obtain ⟨f, -, hx, rfl⟩ := completionStep_eq_next h
  obtain ⟨f', -, hx', rfl⟩ := completionStep_eq_next h'
  obtain rfl : f = f' := Option.some.inj (hx.symm.trans (hxfer.trans hx'))
  have hevents : s'.completionEvents p f = s.completionEvents p f := by
    simp only [State.completionEvents, State.resubmission, hrstate, hread, hstatus]
  refine ⟨?_, ?_, ?_, _, completed_hist_eq s p f, hevents ▸ completed_hist_eq s' p f⟩
  · simp [State.completed_out, hrstate, hstatus]
  · simp [State.completed_xfer, hrstate, hstatus, hread]
  · simp [State.completed_submitErr, hrstate, hstatus, herr]

/-- Settles O52: each effect of a step keeps the failure of every stalled position on record. -/
theorem stallAlwaysRecorded : Obligations.StallAlwaysRecorded := by
  intro s t hs hstep
  obtain ⟨e, s0, hsame, he, -⟩ | ⟨rfl, -, -⟩ := step_effect hstep
  · refine he.keeps_stallInv fun p hp => ?_
    rw [hsame] at hp ⊢
    exact hs p hp
  · exact hs

/-- Settles O56: with nothing outstanding the step waits; otherwise the position picked is one of the outstanding ones,
whose completion runs. -/
theorem quietBusCompletesOrWaits : Obligations.QuietBusCompletesOrWaits := by
  intro s hinv hin
  refine ⟨fun hnone => step_of_quiet hin hnone, fun ⟨q, hq⟩ => ?_⟩
  obtain ⟨p, hp, hstep⟩ := step_of_no_input hin hq
  obtain ⟨f, hx, -⟩ := hinv.completes hp
  exact ⟨p, f, _, _, hp, hx, hstep.trans (completionStep_of_outstanding _ hp hx), completed_hist_eq _ p f⟩

/-- Settles O30: the answer drawn is the outcome of the bus initialisation. -/
theorem busInitBothOutcomesAdmitted : Obligations.BusInitBothOutcomesAdmitted := by
  intro s st hs
  refine ⟨_, ⟨[st], (commandStep_of_ok (decode_encode (i := .setup) rfl)).trans
    (exec_setup_of_first (s := { s with draws := [st] }) hs)⟩, ?_, readyOf_eq_decide st⟩
  simp [State.drawAt]

/-- Settles O34: a completion that completes had its transfer outstanding. -/
theorem spuriousCompletionHasNoStep : Obligations.SpuriousCompletionHasNoStep := fun _ _ ho =>
  completionStep_of_not_outstanding ho

end Sys2Proof.Machine

/-! Proofs of the family 43_control_status.md: SET_INTENSITY, READ_STATUS and the bits of STATUS, and why no run shows
the intensity outside the answers. -/

namespace Sys2Proof.Machine

/-! ### The bits of STATUS (43_control_status.md R127, R130) -/

@[simp] theorem RState.bit_getLsbD_zero (r : RState) : r.bit.getLsbD 0 = decide (r = .refreshing) := by
  cases r <;> rfl

@[simp] theorem PinLevel.bit_getLsbD_zero (l : PinLevel) : l.bit.getLsbD 0 = decide (l = .high) := by
  cases l <;> rfl

theorem outBits_getLsbD (out : Vector Bool 9) (p : Pos) : (outBits out).getLsbD p.val = out.get p := by
  simp [outBits]

/-- A field placed at bit `k` of a word: nothing below bit `k`, and the field's bits from there. -/
theorem place_getLsbD {n : Nat} (v : BitVec n) (k : Nat) {i : Nat} (hi : i < 32) :
    (zext32 v <<< k).getLsbD i = (decide (k ≤ i) && v.getLsbD (i - k)) := by
  by_cases hk : k ≤ i
  · simp [zext32, hi, hk, Nat.not_lt.mpr hk]
  · simp [hk, Nat.not_le.mp hk]

/-- A field is read back from the bits it stands in. -/
theorem extract_eq_of_getLsbD {w : Word} {k n : Nat} {v : BitVec n} (h : ∀ j < n, w.getLsbD (k + j) = v.getLsbD j) :
    w.extractLsb' k n = v := by
  ext j hj
  simpa [hj] using h j hj

section
variable (s : State) {i j : Nat}

/-- Any bit of STATUS: each field has its say from the bit it begins at. -/
theorem State.status_getLsbD (hi : i < 32) :
    s.status.getLsbD i = (s.active.getLsbD i || (decide (1 ≤ i) && s.rstate.bit.getLsbD (i - 1)) ||
      (decide (2 ≤ i) && (BitVec.ofBool s.busReady).getLsbD (i - 2)) ||
      (decide (3 ≤ i) && (BitVec.ofBool s.setupDone).getLsbD (i - 3)) ||
      (decide (4 ≤ i) && (BitVec.ofBool s.ill).getLsbD (i - 4)) ||
      (decide (5 ≤ i) && (BitVec.ofBool s.submitErr).getLsbD (i - 5)) ||
      (decide (6 ≤ i) && s.pinLatch.bit.getLsbD (i - 6)) || (decide (8 ≤ i) && s.intensity.getLsbD (i - 8)) ||
      (decide (12 ≤ i) && s.lastCause.getLsbD (i - 12)) || (decide (16 ≤ i) && (outBits s.out).getLsbD (i - 16)) ||
      (decide (25 ≤ i) && s.pinEn.bit.getLsbD (i - 25)) || (decide (26 ≤ i) && s.pinOe.bit.getLsbD (i - 26))) := by
  have hactive : (zext32 s.active).getLsbD i = s.active.getLsbD i := by simp [zext32, hi]
  simp only [State.status, BitVec.getLsbD_or, place_getLsbD _ _ hi, hactive]

theorem State.status_flags :
    s.status.getLsbD 1 = decide (s.rstate = .refreshing) ∧ s.status.getLsbD 2 = s.busReady ∧
      s.status.getLsbD 3 = s.setupDone ∧ s.status.getLsbD 4 = s.ill ∧ s.status.getLsbD 5 = s.submitErr ∧
      s.status.getLsbD 6 = decide (s.pinLatch = .high) ∧ s.status.getLsbD 7 = false ∧
      s.status.getLsbD 25 = decide (s.pinEn = .high) ∧ s.status.getLsbD 26 = decide (s.pinOe = .high) := by
  simp (disch := decide) only [State.status_getLsbD, BitVec.getLsbD_of_ge]
  simp [-BitVec.getLsbD_eq_getElem]

theorem State.status_active (h : j < 1) : s.status.getLsbD j = s.active.getLsbD j := by
  rw [s.status_getLsbD (by omega)]
  simp (disch := omega) [decide_eq_false]

theorem State.status_intensity (h : j < 4) : s.status.getLsbD (8 + j) = s.intensity.getLsbD j := by
  rw [s.status_getLsbD (by omega)]
  simp (disch := omega) [decide_eq_false, BitVec.getLsbD_of_ge]

theorem State.status_lastCause (h : j < 4) : s.status.getLsbD (12 + j) = s.lastCause.getLsbD j := by
  rw [s.status_getLsbD (by omega)]
  simp (disch := omega) [decide_eq_false, BitVec.getLsbD_of_ge]

theorem State.status_out (p : Pos) : s.status.getLsbD (16 + p.val) = s.out.get p := by
  have hp := p.isLt
  rw [s.status_getLsbD (by omega), ← outBits_getLsbD]
  simp (disch := omega) [decide_eq_false, BitVec.getLsbD_of_ge]

/-- Every field of STATUS ends below bit 27. -/
theorem State.status_reserved (h : j < 5) : s.status.getLsbD (27 + j) = false := by
  rw [s.status_getLsbD (by omega)]
  simp (disch := omega) only [BitVec.getLsbD_of_ge, Bool.and_false, Bool.or_false]

end

/-! ### What the observer of R126 sees of each operation

`State.blind` commutes with every operation that records no `Cmd` event, and does not see an answer at all. -/

section
variable (s : State)

theorem State.blind_blind : s.blind.blind = s.blind := by simp [State.blind]

theorem State.blind_respond (i : Instr) (d : Word) : (s.respond i d).blind = s.blind := by
  simp [State.blind, State.respond, State.emit, Event.isCmd]

theorem State.blind_setLevel (level : BitVec 4) : (s.setLevel level).blind = s.blind := rfl

theorem State.blind_illegal (w : Word) (c : Cause) : (s.blind.illegal w c).blind = (s.illegal w c).blind := by
  simp [State.blind, State.illegal, Event.isCmd]

theorem State.emit_blind {e : Event} (h : e.isCmd = false) : s.blind.emit e = (s.emit e).blind := by
  simp [State.blind, State.emit, h]

theorem State.setUp_blind (st : BusStatus) : s.blind.setUp st = (s.setUp st).blind := by
  simp [State.blind, State.setUp, State.emit, State.popDraw, Event.isCmd]

theorem State.popSubmitDraw_blind : s.blind.popSubmitDraw = s.popSubmitDraw.blind :=
  (apply_ite State.blind (s.busReady = true) s.popDraw s).symm

theorem State.submit_blind (p : Pos) : s.blind.submit p = (s.submit p).blind := by
  cases h : s.submitStatus with
  | ok =>
    rw [s.submit_of_ok h, s.blind.submit_of_ok h, s.popSubmitDraw_blind, State.emit_blind _ rfl]
    rfl
  | fail =>
    rw [s.submit_of_fail h, s.blind.submit_of_fail h, s.popSubmitDraw_blind, State.emit_blind _ rfl]
    rfl

theorem State.submitAll_blind : s.blind.submitAll = s.submitAll.blind :=
  List.foldl_hom State.blind fun t p => t.submit_blind p

theorem State.trigger_blind : s.blind.trigger = s.trigger.blind := by
  cases h : s.rstate with
  | idle => rw [s.trigger_of_idle h, s.blind.trigger_of_idle h]; exact s.started.submitAll_blind
  | refreshing => rw [s.trigger_of_refreshing h, s.blind.trigger_of_refreshing h]; rfl

theorem State.latched_blind (p : Pos) (f : Frame) : s.blind.latched p f = (s.latched p f).blind := by
  simp [State.blind, State.latched, State.emit, State.setLatch, State.clearTransfer, Event.isCmd]

theorem State.latchLow_blind (p : Pos) :
    (s.blind.setLatch .low).emit (.latchLow p) = ((s.setLatch .low).emit (.latchLow p)).blind :=
  State.emit_blind (s.setLatch .low) rfl

theorem State.completed_blind (p : Pos) (f : Frame) : s.blind.completed p f = (s.completed p f).blind := by
  cases h : s.rstate with
  | idle =>
    rw [s.completed_of_idle p f h, s.blind.completed_of_idle p f h, s.latched_blind, State.latchLow_blind]
  | refreshing =>
    rw [s.completed_of_refreshing p f h, s.blind.completed_of_refreshing p f h, s.latched_blind, State.submit_blind,
      State.latchLow_blind]

/-! ### What the observer sees of each step -/

theorem completionStep_blind (p : Pos) : completionStep p s.blind = blindResult (completionStep p s) := by
  rcases completionStep_cases s (p := p) rfl with ⟨ho, hr⟩ | ⟨ho, hx, hr⟩ | ⟨f, ho, hx, hr⟩
  · rw [hr]; exact if_neg (by simp [State.blind, ho])
  · rw [hr]; simp [completionStep, State.blind, ho, hx, blindResult]
  · rw [hr, completionStep_of_outstanding s.blind ho hx, s.completed_blind]; rfl

/-- Whatever two commands answer, the observer sees the work before the answers only. -/
theorem answer_blind {u v : State} (h : v = u.blind) (i : Instr) (d d' : Word) :
    (v.respond i d).blind = (u.respond i d').blind := by
  rw [State.blind_respond, State.blind_respond, h, State.blind_blind]

theorem withPos_blind (i : Instr) (pos : BitVec 4) {f g : Pos → State} (h : ∀ p, (f p).blind = (g p).blind) :
    (s.blind.withPos i pos f).blind = (s.withPos i pos g).blind := by
  cases hp : posOf pos with
  | none => rw [s.withPos_of_none hp, s.blind.withPos_of_none hp, s.blind_illegal]
  | some p => rw [s.withPos_of_some hp, s.blind.withPos_of_some hp, h p]

/-- No command's work reads INTENSITY or the history: READ_STATUS alone answers a level, in its `Cmd` event. -/
theorem exec_blind (i : Instr) : blindResult (exec i s.blind) = blindResult (exec i s) := by
  cases i with
  | setup =>
    cases h : s.setupDone with
    | true =>
      rw [exec_repeated_setup h, exec_repeated_setup (s := s.blind) h]
      exact congrArg Host.Outcome.next (s.blind_illegal ..)
    | false =>
      rw [exec_setup_of_first h, exec_setup_of_first (s := s.blind) h]
      exact congrArg Host.Outcome.next (answer_blind (s.setUp_blind _) ..)
  | setDigit pos =>
    exact congrArg Host.Outcome.next (withPos_blind s _ pos fun p =>
      answer_blind (u := s.memWrite s.pending p _) rfl ..)
  | writeFrame pos =>
    exact congrArg Host.Outcome.next (withPos_blind s _ pos fun p =>
      answer_blind (u := s.memWrite s.pending p _) rfl ..)
  | swap => exact congrArg Host.Outcome.next (answer_blind (u := s.flipActive) rfl ..)
  | display => exact congrArg Host.Outcome.next (answer_blind s.trigger_blind ..)
  | setIntensity level => exact congrArg Host.Outcome.next (answer_blind (u := s.setLevel level) rfl ..)
  | encodeChar pos => exact congrArg Host.Outcome.next (withPos_blind s _ pos fun _ => answer_blind rfl ..)
  | readFrame pos => exact congrArg Host.Outcome.next (withPos_blind s _ pos fun _ => answer_blind rfl ..)
  | readStatus => exact congrArg Host.Outcome.next (answer_blind rfl ..)

theorem blindResult_blindResult (r : Result) : blindResult (blindResult r) = blindResult r := by
  cases r with
  | next t => exact congrArg Host.Outcome.next t.blind_blind
  | fault r => rfl
  | refused r => rfl

theorem inputStep_blind (e : Input) : blindResult (inputStep e s.blind) = blindResult (inputStep e s) := by
  cases e with
  | command w =>
    change blindResult (commandStep w s.blind) = blindResult (commandStep w s)
    cases hd : decode w with
    | ok i => rw [commandStep_of_ok hd, commandStep_of_ok hd, exec_blind]
    | error c =>
      rw [commandStep_of_error hd, commandStep_of_error hd]
      exact congrArg Host.Outcome.next (s.blind_illegal w c)
  | complete p =>
    change blindResult (completionStep p s.blind) = blindResult (completionStep p s)
    rw [completionStep_blind, blindResult_blindResult]
  | reset => rfl

/-- A SET_INTENSITY command completes, and the observer sees nothing of it. -/
theorem inputStep_of_intensity {e : Input} (h : e.notIntensity = false) :
    ∃ t, inputStep e s = .next t ∧ t.blind = s.blind := by
  cases e with
  | command w =>
    cases hd : decode w with
    | error c => simp [Input.notIntensity, hd] at h
    | ok i =>
      cases i with
      | setIntensity level =>
        exact ⟨_, commandStep_of_ok hd, (State.blind_respond ..).trans (s.blind_setLevel level)⟩
      | _ => simp [Input.notIntensity, hd] at h
  | complete p => cases h
  | reset => cases h

end

/-! ### What the observer sees of a run -/

/-- From states that look alike a step leads to outcomes that look alike. -/
theorem inputStep_alike {s t : State} (h : s.blind = t.blind) (e : Input) :
    blindResult (inputStep e s) = blindResult (inputStep e t) := by
  rw [← inputStep_blind s, h, inputStep_blind]

/-- Outcomes that look alike are equal stops, or next states that look alike. -/
theorem blindResult_eq_cases {r r' : Result} (h : blindResult r = blindResult r') :
    r = r' ∨ ∃ u v, r = .next u ∧ r' = .next v ∧ u.blind = v.blind := by
  cases r <;> cases r' <;> simp_all [blindResult]

theorem runInputs_alike {s t : State} (h : s.blind = t.blind) (es : List Input) :
    blindResult (runInputs es s) = blindResult (runInputs es t) := by
  induction es generalizing s t with
  | nil => exact congrArg Host.Outcome.next h
  | cons e es ih =>
    rcases blindResult_eq_cases (inputStep_alike h e) with hst | ⟨u, v, hu, hv, huv⟩
    · simp only [runInputs, hst]
    · simp only [runInputs, hu, hv]
      exact ih huv

/-- Leaving the SET_INTENSITY commands out of a run changes nothing the observer sees. -/
theorem runInputs_filter_notIntensity (es : List Input) (s : State) :
    blindResult (runInputs (es.filter Input.notIntensity) s) = blindResult (runInputs es s) := by
  induction es generalizing s with
  | nil => rfl
  | cons e es ih =>
    cases he : e.notIntensity with
    | true =>
      rw [List.filter_cons_of_pos he]
      cases hs : inputStep e s <;> simp only [runInputs, hs, ih]
    | false =>
      obtain ⟨t, ht, hblind⟩ := inputStep_of_intensity s he
      rw [List.filter_cons_of_neg (by simp [he])]
      simp only [runInputs, ht]
      rw [runInputs_alike hblind.symm, ih]

/-! ### The obligations -/

/-- Settles O46: each of the two runs looks like the one run with the SET_INTENSITY commands left out. -/
theorem intensityChangesNoOutput : Obligations.IntensityChangesNoOutput := fun es es' s h =>
  calc blindResult (runInputs es s)
    _ = blindResult (runInputs (es.filter Input.notIntensity) s) := (runInputs_filter_notIntensity es s).symm
    _ = blindResult (runInputs (es'.filter Input.notIntensity) s) := by rw [h]
    _ = blindResult (runInputs es' s) := runInputs_filter_notIntensity es' s

/-- Settles O45: SET_INTENSITY's row has no position to check, and its meaning is one update and the answer. -/
theorem setIntensityRule : Obligations.SetIntensityRule :=
  ⟨fun _ h => decode_of_checks (opField_of_matches (o := .setIntensity) h) h rfl, fun _ _ => rfl,
    reservedFieldRule .setIntensity⟩

/-- Settles O47: the word is READ_STATUS's encoding, its meaning is the answer alone, and each field of STATUS is read
back from its place. -/
theorem readStatusRule : Obligations.ReadStatusRule := by
  refine ⟨decode_encode (i := .readStatus) rfl, fun _ => rfl, reservedFieldRule .readStatus, by decide, fun s => ?_⟩
  obtain ⟨hrstate, hready, hdone, hill, herr, hlatch, hzero, hen, hoe⟩ := s.status_flags
  refine ⟨extract_eq_of_getLsbD fun j hj => ?_, hrstate, hready, hdone, hill, herr, hlatch, hzero,
    extract_eq_of_getLsbD fun j => s.status_intensity, extract_eq_of_getLsbD fun j => s.status_lastCause,
    s.status_out, hen, hoe, extract_eq_of_getLsbD fun j hj => ?_⟩
  · rw [Nat.zero_add, s.status_active hj]
  · exact (s.status_reserved hj).trans BitVec.getLsbD_zero.symm

end Sys2Proof.Machine

/-! Proofs of the family 44_host_pseudo_ops.md: what PRINT_AT's loop reads from a text and where it places it, and that
the expansion keeps every other position. -/

namespace Sys2Proof.Machine

/-! ### Readings, as R131's loop extends them: the first character and its dot, then the rest from the next counter -/

section
variable {i : Nat} {text rest : List Byte} {placed : List (Byte × Bool)}

/-- At the text's end or from counter 8 on nothing is read. -/
theorem ReadsAs.of_stop (h : text = [] ∨ 8 ≤ i) : ReadsAs i text [] text where
  bytes := rfl
  dots_taken := by simp
  stops_last := h
  stops_at_8 := .inl rfl

theorem ReadsAs.cons (x : Byte × Bool) (hi : i < 8) (hdot : x.2 = false → text.head? ≠ some dotChar)
    (h : ReadsAs (i + 1) text placed rest) : ReadsAs i (textOf [x] ++ text) (x :: placed) rest where
  bytes := by rw [h.bytes]; simp [textOf]
  dots_taken k c hk := by
    cases k with
    | zero =>
      obtain rfl : x = (c, false) := by simpa using hk
      simpa [← h.bytes] using hdot rfl
    | succ k => exact h.dots_taken k c hk
  stops_last := h.stops_last.imp_right fun hlen => by rw [List.length_cons]; omega
  stops_at_8 := .inr <| by
    rw [List.length_cons]
    obtain rfl | hlen := h.stops_at_8
    · exact hi
    · omega

theorem ReadsAs.placed_of_late (h : ReadsAs i text placed rest) (hi : 8 ≤ i) : placed = [] :=
  h.stops_at_8.elim id fun hlen => List.length_eq_zero_iff.mp (by omega)

end

/-! ### The row of SET_DIGIT commands for a reading (44_host_pseudo_ops.md R131) -/

/-- One SET_DIGIT for each character of a reading whose counter starts at `i`. -/
def digitsFrom (i : Nat) (placed : List (Byte × Bool)) : List Instr :=
  placed.mapIdx fun k x => digitAt (i + k) x.1 x.2

theorem digitsFrom_cons (i : Nat) (x : Byte × Bool) (placed : List (Byte × Bool)) :
    digitsFrom i (x :: placed) = digitAt i x.1 x.2 :: digitsFrom (i + 1) placed := by
  simp [digitsFrom, List.mapIdx_cons, Nat.add_assoc, Nat.add_comm 1]

@[simp] theorem digitsFrom_length (i : Nat) (placed : List (Byte × Bool)) :
    (digitsFrom i placed).length = placed.length := List.length_mapIdx

/-- R131's loop emits the row for what it reads. -/
theorem placeChars_reads (i : Nat) (text : List Byte) :
    ∃ placed rest, ReadsAs i text placed rest ∧ placeChars i text = digitsFrom i placed := by
  fun_induction placeChars i text with
  | case1 => exact ⟨[], [], .of_stop (.inl rfl), rfl⟩
  | case2 i c hi => exact ⟨[(c, false)], [], .cons (c, false) hi (by simp) (.of_stop (.inl rfl)), rfl⟩
  | case3 i c hi | case6 i c t rest hi => exact ⟨[], _, .of_stop (.inr (Nat.le_of_not_lt hi)), rfl⟩
  | case4 i c rest hi ih =>
    obtain ⟨placed, left, hreads, hplace⟩ := ih
    exact ⟨(c, true) :: placed, left, .cons (c, true) hi nofun hreads, by rw [hplace, digitsFrom_cons]⟩
  | case5 i c t rest hi hdot ih =>
    obtain ⟨placed, left, hreads, hplace⟩ := ih
    exact ⟨(c, false) :: placed, left, .cons (c, false) hi (by simpa using hdot) hreads,
      by rw [hplace, digitsFrom_cons]⟩

theorem printAt_reads (start : Nat) {text : List Byte} (h : 0 ∉ text) :
    ∃ placed rest, ReadsAs start text placed rest ∧
      printAt start text = some (digitsFrom start placed ++ [.display]) := by
  obtain ⟨placed, rest, hreads, hplace⟩ := placeChars_reads start text
  exact ⟨placed, rest, hreads, by rw [printAt, if_neg (by simpa using h), hplace]⟩

/-! ### What the row writes (44_host_pseudo_ops.md R134) -/

/-- The physical position of the logical counter `i`. -/
def digitPos (i : Nat) : Pos := ⟨7 - i, by omega⟩

theorem writtenBy_digitAt (i : Nat) (c : Byte) (d : Bool) :
    writtenBy (digitAt i c d) = some (digitPos i, encodeFrame (digitPos i) c d) :=
  congrArg (Option.map _) (posOf_posBits (digitPos i))

theorem digitsFrom_writes (i : Nat) (placed : List (Byte × Bool)) :
    ∀ w ∈ digitsFrom i placed, (writtenBy w).isSome = true := by
  intro w hw
  obtain ⟨k, hk, rfl⟩ := List.mem_mapIdx.mp hw
  rw [writtenBy_digitAt, Option.isSome_some]

/-- A position that no counter of the row stands for keeps its frame. -/
theorem lastWritten_digitsFrom {p : Pos} {i : Nat} {placed : List (Byte × Bool)}
    (h : ∀ k < placed.length, digitPos (i + k) ≠ p) (old : Frame) : lastWritten p old (digitsFrom i placed) = old := by
  induction placed generalizing i with
  | nil => rfl
  | cons x placed ih =>
    have hhead : digitPos i ≠ p := h 0 (Nat.zero_lt_succ _)
    have htail (k : Nat) (hk : k < placed.length) : digitPos (i + 1 + k) ≠ p := by
      rw [Nat.add_assoc, Nat.add_comm 1]
      exact h (k + 1) (Nat.succ_lt_succ hk)
    rw [digitsFrom_cons, lastWritten_cons (writtenBy_digitAt i x.1 x.2), if_neg hhead, ih htail]

/-- Counters below 8 place at 7 - start and down from there: above that and below the last one nothing is placed. -/
theorem ReadsAs.digitPos_ne {start : Nat} {text rest : List Byte} {placed : List (Byte × Bool)}
    (h : ReadsAs start text placed rest) {p : Pos}
    (hp : p.val > 7 - start ∨ p.val + start + placed.length < 8 ∨ 8 ≤ start) :
    ∀ k < placed.length, digitPos (start + k) ≠ p := by
  rintro k hk rfl
  obtain rfl | hlen := h.stops_at_8
  · exact Nat.not_lt_zero k hk
  · simp only [digitPos] at hp
    omega

/-! ### The obligations -/

/-- Settles O59: the expansion is a row of writes and a swap (O27), and no write of the row is at such a position. -/
theorem printKeepsOtherPositions : Obligations.PrintKeepsOtherPositions := by
  intro s start text htext
  obtain ⟨placed, rest, hreads, hprint⟩ := printAt_reads start htext
  obtain ⟨t, ht, hactive, hread⟩ :=
    writesThenSwapReadBack s (digitsFrom start placed) .display (digitsFrom_writes start placed) (.inr rfl)
  refine ⟨_, t, hprint, ht, hactive, fun p hp => ?_⟩
  have hother := hreads.digitPos_ne (p := p) (by simpa using hp)
  exact (hread p).1.trans (lastWritten_digitsFrom hother _)

/-- Settles O58: the reading that the loop's row of SET_DIGIT commands is for. -/
theorem printPlacesDownward : Obligations.PrintPlacesDownward := by
  intro start text htext
  obtain ⟨placed, rest, hreads, hprint⟩ := printAt_reads start htext
  exact ⟨placed, rest, hreads, hreads.placed_of_late, hprint⟩

/-- Settles O57: eight closed texts, expanded. -/
theorem printExpansionsWrittenOut : Obligations.PrintExpansionsWrittenOut := by
  unfold Obligations.PrintExpansionsWrittenOut
  decide

end Sys2Proof.Machine

/-! Proofs of the family 60_exceptions.md: the effect of an illegal command, the codes that LAST_CAUSE holds, and how a
step ends. -/

namespace Sys2Proof.Machine

variable {s t : State}

/-! ### LAST_CAUSE (60_exceptions.md R138) -/

/-- Only an illegal command writes LAST_CAUSE, and it stores the code of a cause. -/
theorem CommandEffect.lastCause {w : Word} (h : CommandEffect w s t) :
    t.lastCause = s.lastCause ∨ ∃ c : Cause, t.lastCause = c.code := by
  cases h with
  | illegal v c => exact .inr ⟨c, rfl⟩
  | answer | write | swap | level | setup => exact .inl rfl
  | start => exact .inl (by simp)

/-- An agent's step leaves LAST_CAUSE, stores the code of a cause there, or resets it. -/
theorem InputEffect.lastCause {e : Input} (h : InputEffect s e t) :
    t.lastCause = s.lastCause ∨ (∃ c : Cause, t.lastCause = c.code) ∨ t.lastCause = State.reset.lastCause := by
  cases h with
  | command w _ hc => exact hc.lastCause.imp_right .inl
  | complete p f _ _ =>
    obtain ⟨-, -, -, -, -, -, -, hcause, -⟩ := s.completed_same p f
    exact .inl hcause
  | reset => exact .inr (.inr rfl)

/-! ### How a step ends (60_exceptions.md R140, 70_reset_and_hazards.md R159, R174) -/

theorem step_of_input {e : Input} {rest : List Input} (h : s.inputs = e :: rest) :
    step s = inputStep e { s with inputs := rest } := by simp [step, takeStep, h]

/-- The bus agent reports a transfer that is not outstanding next, which the bus contract excludes
(42_refresh_scheduler.md R103). -/
def State.ImpossibleNext (s : State) : Prop := ∃ p, s.inputs.head? = some (.complete p) ∧ s.out.get p = false

/-- Under the invariant an agent's step has a next state, but for the completion of a transfer that is not outstanding,
which has no step. -/
theorem State.Inv.inputStep_ends (h : s.Inv) (e : Input) :
    (∃ t, inputStep e s = .next t) ∨
      ∃ p, e = .complete p ∧ s.out.get p = false ∧ inputStep e s = .refused .noSuchTransfer := by
  cases e with
  | command w => exact .inl (everyCommandWordCompletes w s)
  | complete p =>
    cases ho : s.out.get p with
    | true =>
      obtain ⟨f, -, hnext⟩ := h.completes ho
      exact .inl ⟨_, hnext⟩
    | false => exact .inr ⟨p, rfl, ho, if_neg (by simp [ho])⟩
  | reset => exact .inl ⟨_, rfl⟩

/-- Where the schedule is empty there is a next state: some outstanding transfer completes, or the block waits. -/
theorem State.Inv.quiet_next (h : s.Inv) (hin : s.inputs = []) : ∃ t, Machine.step s = .next t := by
  obtain ⟨hwaits, hcompletes⟩ := quietBusCompletesOrWaits s h hin
  by_cases hout : ∃ p, s.out.get p = true
  · obtain ⟨_, _, t, _, _, _, hstep, _⟩ := hcompletes hout
    exact ⟨t, hstep⟩
  · exact ⟨s, hwaits (by simpa using hout)⟩

/-- Under the invariant the one thing that stops the machine is an impossible completion, which is refused. -/
theorem State.Inv.step_ends (h : s.Inv) :
    (∃ t, Machine.step s = .next t) ∨ (s.ImpossibleNext ∧ Machine.step s = .refused .noSuchTransfer) := by
  cases hin : s.inputs with
  | nil => exact .inl (h.quiet_next hin)
  | cons e rest =>
    rw [step_of_input hin]
    refine ((h.sameBlock (s.sameBlock_of_inputs rest)).inputStep_ends e).imp_right ?_
    rintro ⟨p, rfl, ho, hrefused⟩
    exact ⟨⟨p, by simp [hin], ho⟩, hrefused⟩

/-! ### The obligations -/

/-- Settles O53: every value that a step leaves in LAST_CAUSE is the old one, the code of a cause, or 0. -/
theorem lastCauseStaysLegal : Obligations.LastCauseStaysLegal := by
  refine ⟨by decide, fun s t hs hstep => ?_⟩
  obtain ⟨e, s0, hsame, he, -⟩ | ⟨rfl, -, -⟩ := step_effect hstep
  · obtain ⟨-, -, -, -, -, -, -, -, -, hcause, -⟩ := hsame.elements
    obtain h | ⟨c, h⟩ | h := he.lastCause
    · rwa [h, hcause]
    · exact h ▸ causeCode_le_four c
    · exact h ▸ Nat.zero_le 4
  · exact hs

/-- Settles O55: a step has a next state or is refused, and only an impossible completion is refused. -/
theorem machineNeverStuck : Obligations.MachineNeverStuck := by
  intro s hinv
  obtain ⟨t, hnext⟩ | ⟨⟨p, hhead, ho⟩, hrefused⟩ := hinv.step_ends
  · exact ⟨by simp [hnext], fun _ => ⟨t, hnext⟩⟩
  · exact ⟨by simp [hrefused], fun hlegal => by simp [hlegal p hhead] at ho⟩

/-- Settles O10: a word that does not decode takes its cause's exception, and the word 0x10000000 is SETUP's, which
repeated takes its own. -/
theorem illegalCommandEffect : Obligations.IllegalCommandEffect :=
  ⟨fun _ _ _ _ hin hd => (step_of_command hin).trans (commandStep_of_error hd),
    fun _ _ hin hdone => (step_of_command hin).trans <|
      (commandStep_of_ok (decode_encode (i := .setup) rfl)).trans (exec_repeated_setup hdone),
    rfl, rfl, rfl, rfl⟩

end Sys2Proof.Machine

/-! Proofs of the family 70_reset_and_hazards.md: what reset gives, and that nothing else clears a sticky bit. -/

namespace Sys2Proof.Machine

variable {s t : State}

/-! ### A step but reset is a row of recorded events (10_state.md R31, 70_reset_and_hazards.md R158) -/

theorem InputEffect.row {e : Input} (h : InputEffect s e t) (hinv : s.Inv) (hne : e ≠ .reset) : RecordsRow s t := by
  cases h with
  | command w _ hc => exact hc.row hinv.idle_none_out hinv.ready_after_setup
  | complete p f ho _ => exact completed_row f ho
  | reset => exact absurd rfl hne

theorem step_row (hinv : s.Inv) (hne : s.inputs.head? ≠ some .reset) (hstep : step s = .next t) :
    ∃ s0, s.sameBlock s0 ∧ RecordsRow s0 t := by
  obtain ⟨e, s0, hs, he, hreset⟩ | ⟨rfl, -, -⟩ := step_effect hstep
  · exact ⟨s0, hs, he.row (hinv.sameBlock hs) fun h => hne (hreset h)⟩
  · exact ⟨t, rfl, .refl⟩

/-! ### Sticky bits (43_control_status.md R129) -/

/-- From `s` to `t` refresh did not stop and no sticky bit was cleared. LAST_CAUSE follows from ILL by I-e of
10_state.md R40. -/
structure StickyKept (s t : State) : Prop where
  refreshing : s.rstate = .refreshing → t.rstate = .refreshing
  ill : s.ill = true → t.ill = true
  submitErr : s.submitErr = true → t.submitErr = true
  setupDone : s.setupDone = true → t.setupDone = true
  busReady : s.busReady = true → t.busReady = true

/-- An event can only set the flags it stands for, so a row of them clears none. -/
theorem RecordsRow.stickyKept (h : RecordsRow s t) : StickyKept s t where
  refreshing := h.keeps (P := fun u => u.rstate = .refreshing) fun _ _ _ r hu => r.refreshing.mpr (.inl hu)
  ill := h.keeps (P := fun u => u.ill = true) fun _ _ _ r hu => r.ill.mpr (.inl hu)
  submitErr := h.keeps (P := fun u => u.submitErr = true) fun _ _ _ r hu => r.submitErr.mpr (.inl hu)
  setupDone := h.keeps (P := fun u => u.setupDone = true) fun _ _ _ r hu => r.setupDone.mpr (.inl hu)
  busReady := h.keeps (P := fun u => u.busReady = true) fun _ _ _ r hu => r.busReady.mpr (.inl hu)

theorem step_stickyKept (hinv : s.Inv) (hne : s.inputs.head? ≠ some .reset) (hstep : step s = .next t) :
    StickyKept s t := by
  obtain ⟨s0, hs, hrow⟩ := step_row hinv hne hstep
  obtain ⟨-, -, hrstate, -, -, hready, hsetup, -, hill, -, herr, -⟩ := hs.elements
  obtain ⟨kr, ki, ke, ks, kb⟩ := hrow.stickyKept
  exact ⟨hrstate ▸ kr, hill ▸ ki, herr ▸ ke, hsetup ▸ ks, hready ▸ kb⟩

/-- I-e of 10_state.md R40, read at 1. -/
theorem State.Inv.cause_ne_zero_iff (h : s.Inv) : s.lastCause ≠ 0 ↔ s.ill = true := by
  rw [ne_eq, ← h.ill_iff_cause, Bool.not_eq_false]

/-! ### The obligations -/

/-- Settles O54: an event sets flags and clears none, and LAST_CAUSE is nonzero exactly while ILL is set. -/
theorem onlyResetClears : Obligations.OnlyResetClears := by
  intro s t hinv hne hstep
  obtain ⟨hrefreshing, hill, herr, hsetup, hready⟩ := step_stickyKept hinv hne hstep
  have hcause : s.lastCause ≠ 0 → t.lastCause ≠ 0 := fun hc =>
    (hinv.step hstep).cause_ne_zero_iff.mpr (hill (hinv.cause_ne_zero_iff.mp hc))
  exact ⟨hrefreshing, hill, hcause, herr, hsetup, hready⟩

/-- Settles O2: the step is `resetStep`, which leaves nothing outstanding, and only an outstanding transfer completes. -/
theorem resetStepDiscardsEverything : Obligations.ResetStepDiscardsEverything := fun s rest hin =>
  ⟨resetStep { s with inputs := rest }, step_of_input hin, rfl, rfl, reset_out,
    fun p => completionStep_of_not_outstanding (reset_out p)⟩

end Sys2Proof.Machine
